-- ==== Sys2Proof/Word.lean ====
section
/-! DEFINITION. The word types of the CORE and the bounds of the scalar domain
(00_scope R6, R9, R10). -/

namespace Sys2Proof

/-- A byte: an integer in 0 .. 255 (R10). Text is a list of bytes, one character code each (R12). -/
abbrev Byte := BitVec 8

/-- `REG_BITS` = 32: a register of the window, and a command word (R6, R27, R80). -/
abbrev Word := BitVec 32

/-- `SCALAR_BITS` = 129: the two's-complement pattern of a scalar (R6, R21). -/
abbrev Scalar := BitVec 129

/-- The 7-bit index that selects a register of the window (R27). -/
abbrev RegIndex := BitVec 7

/-- `SMIN` = -2^128, the least scalar (R6, R21). -/
def smin : Int := -((2 ^ 128 : Nat) : Int)

/-- `SMAX` = 2^128 - 1, the greatest scalar (R6, R21). -/
def smax : Int := ((2 ^ 128 : Nat) : Int) - 1

end Sys2Proof
end

