-- ==== Sys2Proof/Config.lean ====
section
/-! DEFINITION. The OPEN parameters of the CORE (00_scope R6), as plain data.
A state carries the parameters of its instance (log 4), so that a statement about every state is a
statement about every instance; no transaction changes them (70_reset_and_hazards R252). -/

namespace Sys2Proof

/-- The OPEN parameters of R6. The constraints R6 and R12 put on them are `Config.Legal` in Safety.lean. -/
structure Config where
  /-- `TIN_CAP`: capacity in bytes of the input queue. -/
  tinCap : Nat
  /-- `BSEQ_CAP`: capacity in bytes of the byte-sequence queue. -/
  bseqCap : Nat
  /-- `TOUT_CAP`: capacity in bytes of the output queue. -/
  toutCap : Nat
  /-- `SEP_CAP`: the largest separator length, and the number of registers `SEPB[k]`. -/
  sepCap : Nat
  /-- `WS_SET`: the bytes that count as whitespace for the Hex Token Parser. -/
  wsSet : List Byte
deriving DecidableEq, Repr

/-- The default `WS_SET` of R6. -/
def Config.defaultWhitespace : List Byte := [0x09, 0x0A, 0x0B, 0x0C, 0x0D, 0x20]

/-- The instance every test vector of the spec uses (92_eei_decisions, "default for tests").
DESIGN CHOICE (log 4): the instance that `State.reset` stands on. -/
def Config.testInstance : Config :=
  { tinCap := 256, bseqCap := 64, toutCap := 512, sepCap := 16, wsSet := Config.defaultWhitespace }

end Sys2Proof
end

