-- ==== Sys2Proof/Syntax.lean ====
section
/-! DEFINITION. The twelve commands and the fields of their command words
(00_scope R11; 30_encoding R82, R85). -/

namespace Sys2Proof

/-- `Endianness` (R11): `little` is least-significant byte first, `big` most-significant first. -/
inductive Endian where
  | little
  | big
deriving DecidableEq, Repr

/-- `Format` (R11), the output formats of the Byte Formatter. -/
inductive Format where
  | raw
  | hex
  | cEsc
  | pyEsc
deriving DecidableEq, Repr

/-- `InFormat` (R11): hex text to be parsed, or the bytes as they stand. -/
inductive InFormat where
  | hexText
  | rawBytes
deriving DecidableEq, Repr

/-- The five valid widths, `WIDTHS` of R6 ("No other width is valid"). -/
inductive Width where
  | w8
  | w16
  | w32
  | w64
  | w128
deriving DecidableEq, Repr

/-- The fields of format `CW` other than `OP` (R82). A command keeps every field of its word, those it
ignores too (R86), because a fault copies the whole word to `ECMD` (R31; log 8). -/
structure Fields where
  /-- `WC`, bits 6:4: the width code; 5, 6 and 7 select no width (R84). -/
  wc : BitVec 3
  /-- `ENDIAN`, bit 7. -/
  endian : Endian
  /-- `SIGNED`, bit 8. -/
  signed : Bool
  /-- `STRICT`, bit 9. -/
  strict : Bool
  /-- `FMT`, bits 11:10. -/
  fmt : Format
  /-- `UPPER`, bit 12. -/
  upper : Bool
  /-- `INFMT`, bit 13. -/
  infmt : InFormat
  /-- `LIM`, bit 14. -/
  lim : Bool
deriving DecidableEq, Repr

/-- The twelve commands of R85, one constructor per row of the opcode table. -/
inductive Instr where
  /-- PACK, `OP` 0x1 (R110). -/
  | pack (f : Fields)
  /-- UNPACK, `OP` 0x2 (R113). -/
  | unpack (f : Fields)
  /-- HEXPARSE, `OP` 0x3 (R137). -/
  | hexparse (f : Fields)
  /-- RENDER, `OP` 0x4 (R157). -/
  | render (f : Fields)
  /-- LIT, `OP` 0x5 (R171). -/
  | lit (f : Fields)
  /-- DECOUT, `OP` 0x6 (R177). -/
  | decout (f : Fields)
  /-- BREV, `OP` 0x7 (R179). -/
  | brev (f : Fields)
  /-- PACKOP, `OP` 0x8 (R191). -/
  | packop (f : Fields)
  /-- UNPACKOP, `OP` 0x9 (R194). -/
  | unpackop (f : Fields)
  /-- SWAPOP, `OP` 0xA (R197). -/
  | swapop (f : Fields)
  /-- PASSOP, `OP` 0xB (R199). -/
  | passop (f : Fields)
  /-- CLR, `OP` 0xF (R181). -/
  | clr (f : Fields)
deriving DecidableEq, Repr

end Sys2Proof
end

