-- ==== Sys2Proof/WellFormed.lean ====
section
/-! DEFINITION. Which instructions some command word decodes to (30_encoding R81 step 3, R84). -/

namespace Sys2Proof

/-- The width code selects a width (R84): 0 .. 4. -/
def Fields.widthCodeValid (f : Fields) : Bool := decide (f.wc.toNat ≤ 4)

/-- A well-formed instruction: the five commands that use a width have a valid width code
(R81 step 3, R88); the others ignore the field, whatever its value (R86). -/
def Instr.wellFormed : Instr → Bool
  | .pack f => f.widthCodeValid
  | .unpack f => f.widthCodeValid
  | .hexparse _ => true
  | .render _ => true
  | .lit _ => true
  | .decout _ => true
  | .brev _ => true
  | .packop f => f.widthCodeValid
  | .unpackop f => f.widthCodeValid
  | .swapop f => f.widthCodeValid
  | .passop _ => true
  | .clr _ => true

end Sys2Proof
end

