-- ==== Sys2Proof/Decode.lean ====
section
/-! DEFINITION. Decoding of command words (30_encoding R81 to R88) and the encoder (R93). The decoder is
total on the 2^32 command words; it rejects by name, in the order of R81. -/

namespace Sys2Proof

/-- Why a command word is no command: the two faults the decoder raises (R81). -/
inductive DecodeError where
  /-- Bits 31:15 not zero, or a reserved opcode (R81 steps 1 and 2, R87). -/
  | illegalCommand
  /-- A width-using command with width code 5, 6 or 7 (R81 step 3, R88). -/
  | unsupportedWidth
deriving DecidableEq, Repr

/-- The `FMT` codes (R82). -/
def Format.code : Format → BitVec 2
  | .raw => 0
  | .hex => 1
  | .cEsc => 2
  | .pyEsc => 3

/-- The format a `FMT` code selects (R82). -/
def Format.ofCode (c : BitVec 2) : Format :=
  match c.toNat with
  | 0 => .raw
  | 1 => .hex
  | 2 => .cEsc
  | _ => .pyEsc

/-- The `ENDIAN` bit (R82): 0 little, 1 big. -/
def Endian.bit : Endian → Bool
  | .little => false
  | .big => true

/-- The byte order an `ENDIAN` bit selects (R82). -/
def Endian.ofBit (b : Bool) : Endian := if b then .big else .little

/-- The `INFMT` bit (R82): 0 hex text, 1 raw bytes. -/
def InFormat.bit : InFormat → Bool
  | .hexText => false
  | .rawBytes => true

/-- The input format an `INFMT` bit selects (R82). -/
def InFormat.ofBit (b : Bool) : InFormat := if b then .rawBytes else .hexText

/-- The fields of a command word (R82). -/
def Fields.ofWord (d : Word) : Fields :=
  { wc := d.extractLsb' 4 3
    endian := Endian.ofBit (d.getLsbD 7)
    signed := d.getLsbD 8
    strict := d.getLsbD 9
    fmt := Format.ofCode (d.extractLsb' 10 2)
    upper := d.getLsbD 12
    infmt := InFormat.ofBit (d.getLsbD 13)
    lim := d.getLsbD 14 }

/-- R81 step 3, for the five commands that use a width. -/
def withValidWidth (f : Fields) (i : Instr) : Except DecodeError Instr :=
  if f.widthCodeValid then .ok i else .error .unsupportedWidth

/-- Decoding of a command word, in the order of R81: reserved bits, opcode, width code. -/
def decode (d : Word) : Except DecodeError Instr :=
  if d.extractLsb' 15 17 ≠ 0 then .error .illegalCommand
  else
    let f := Fields.ofWord d
    match (d.extractLsb' 0 4).toNat with
    | 0x1 => withValidWidth f (.pack f)
    | 0x2 => withValidWidth f (.unpack f)
    | 0x3 => .ok (.hexparse f)
    | 0x4 => .ok (.render f)
    | 0x5 => .ok (.lit f)
    | 0x6 => .ok (.decout f)
    | 0x7 => .ok (.brev f)
    | 0x8 => withValidWidth f (.packop f)
    | 0x9 => withValidWidth f (.unpackop f)
    | 0xA => withValidWidth f (.swapop f)
    | 0xB => .ok (.passop f)
    | 0xF => .ok (.clr f)
    | _ => .error .illegalCommand

/-- The `OP` value of a command (R85). -/
def Instr.opcode : Instr → BitVec 4
  | .pack _ => 0x1
  | .unpack _ => 0x2
  | .hexparse _ => 0x3
  | .render _ => 0x4
  | .lit _ => 0x5
  | .decout _ => 0x6
  | .brev _ => 0x7
  | .packop _ => 0x8
  | .unpackop _ => 0x9
  | .swapop _ => 0xA
  | .passop _ => 0xB
  | .clr _ => 0xF

/-- The fields of a command. -/
def Instr.fields : Instr → Fields
  | .pack f => f
  | .unpack f => f
  | .hexparse f => f
  | .render f => f
  | .lit f => f
  | .decout f => f
  | .brev f => f
  | .packop f => f
  | .unpackop f => f
  | .swapop f => f
  | .passop f => f
  | .clr f => f

/-- Bits 14:4 of a command word: `LIM`, `INFMT`, `UPPER`, `FMT`, `STRICT`, `SIGNED`, `ENDIAN`, `WC`,
most significant first (R82). -/
def Fields.toBits (f : Fields) : BitVec 11 :=
  BitVec.ofBool f.lim ++ BitVec.ofBool f.infmt.bit ++ BitVec.ofBool f.upper ++ f.fmt.code
    ++ BitVec.ofBool f.strict ++ BitVec.ofBool f.signed ++ BitVec.ofBool f.endian.bit ++ f.wc

/-- The command word of an opcode and fields, reserved bits 31:15 zero (R93). -/
def encodeWord (op : BitVec 4) (f : Fields) : Word := 0#17 ++ f.toBits ++ op

/-- The command word of a command (R93). -/
def encode (i : Instr) : Word := encodeWord i.opcode i.fields

/-- The instruction the decoder reads from a word of the opcode table's numbering: bit 0 is the least
significant bit of the one 32-bit command word (R80); `none` where the decoder rejects it. -/
def decodeTableWord (nbits w : Nat) : Option Instr :=
  let d := w % 2 ^ nbits
  if d < 2 ^ 32 then
    match decode (BitVec.ofNat 32 d) with
    | .ok i => some i
    | .error _ => none
  else none

end Sys2Proof
end

