-- ==== Sys2Proof/Machine/State.lean ====
section
/-! DEFINITION. The state of the CORE (10_state R20), the fault kinds (60_exceptions R221), what the host
may do (00_scope R7, 70_reset_and_hazards R251), and the state after reset (R48, R250). -/

namespace Sys2Proof.Machine

/-- The model never stops a run: every transaction has exactly one next state
(93_implementation_defined, opening; R263), and a fault of the spec is a next state with the error
record written (R227; log 12). So no reason for a stop exists: nothing raises one, which is safe. -/
inductive Fault where
deriving DecidableEq, Repr

/-- Reasons to have no meaning for an instruction. -/
inductive Refusal where
  /-- Raised only by an arm of `exec` for a command that has no meaning yet; there is none. Safe. -/
  | notModelled (mnemonic : String)
deriving DecidableEq, Repr

/-- A fault of the spec and the facts its record carries (R221, R226): what the pseudocode writes
`raise <Kind>(info)` (R13). -/
inductive CoreFault where
  /-- RangeError, code 1 (R222). -/
  | rangeError (v : Int) (bits : Nat)
  /-- SignError, code 2 (R223). -/
  | signError (v : Int) (bits : Nat)
  /-- OddNibbleError, code 3 (R224): start and length of the raw token. -/
  | oddNibbleError (pos len : Nat)
  /-- InvalidHexError, code 4 (R225): start and length of the raw token. -/
  | invalidHexError (pos len : Nat)
  /-- ParseLiteralError, code 5 (R228): start and length of the literal. -/
  | parseLiteralError (pos len : Nat)
  /-- UnsupportedWidthError, code 6 (R229). -/
  | unsupportedWidthError
  /-- IllegalCommand, code 7 (R230). -/
  | illegalCommand
  /-- LengthError, code 8 (R232): bytes present and bytes required. -/
  | lengthError (present required : Nat)
  /-- CapacityError, code 9, raised by a command (R231 d, e): bytes needed and bytes free. -/
  | capacityError (needed free : Nat)
  /-- CapacityError, code 9, raised by a register write (R231 a, b, c): the index written. -/
  | capacityWrite (index : RegIndex)
deriving DecidableEq, Repr

/-- The error record (R226). -/
structure ErrorRecord where
  /-- `ERR`, bits 3:0 of `STATUS` (R30). -/
  err : BitVec 4
  /-- `ECMD` (R31). -/
  ecmd : Word
  /-- `EBITS` (R32). -/
  ebits : Word
  /-- `EPOS` (R33). -/
  epos : Word
  /-- `ELEN` (R33). -/
  elen : Word
  /-- `ERRVAL` (R38). -/
  errval : Scalar
deriving DecidableEq, Repr

/-- The error record after reset (R48). -/
def ErrorRecord.clear : ErrorRecord :=
  { err := 0, ecmd := 0, ebits := 0, epos := 0, elen := 0, errval := 0 }

/-- The architectural state, exactly that of R20. -/
structure Arch where
  /-- `VAL`, the scalar register (R21). -/
  val : Scalar
  /-- `TIN`, the input queue, head first (R22). -/
  tin : List Byte
  /-- `BSEQ`, the byte-sequence queue, head first (R23). -/
  bseq : List Byte
  /-- `TOUT`, the output queue, head first (R24). -/
  tout : List Byte
  /-- `SEP_LEN` (R25, R42). -/
  sepLen : Word
  /-- `SEPB[0 .. SEP_CAP-1]` (R25, R43). -/
  sepb : List Byte
  /-- `REPEAT` (R26, R34). -/
  repeatCnt : Word
  /-- `MAXCNT` (R26, R35). -/
  maxCnt : Word
  /-- The error record: `ERR`, `ECMD`, `EBITS`, `EPOS`, `ELEN`, `ERRVAL` (R20, R226). -/
  er : ErrorRecord
deriving DecidableEq, Repr

/-- What happens to the CORE from outside: the host's two kinds of transaction (R7) and a reset
between two transactions (R250, R251). -/
inductive HostEvent where
  /-- `reg_write(i, d)`. -/
  | regWrite (i : RegIndex) (d : Word)
  /-- `reg_read(i)`. -/
  | regRead (i : RegIndex)
  /-- The reset input, or power-on. -/
  | reset
deriving DecidableEq, Repr

/-- The state of the model: the architectural state and four fields of the MODEL's own. -/
structure State extends Arch where
  /-- The parameters of this instance, written by nothing (R6, R252; log 4). -/
  cfg : Config
  /-- What the host does next, first event first (log 1). -/
  inbox : List HostEvent
  /-- The values `reg_read` has returned, oldest first (R257; log 2). -/
  replies : List Word
  /-- The mark of R239: set by every fault entry, never cleared (log 6). -/
  faultMark : Bool
deriving DecidableEq, Repr

/-- The architectural state after reset (R48, R250). -/
def Arch.reset (cfg : Config) : Arch :=
  { val := 0
    tin := []
    bseq := []
    tout := []
    sepLen := 1
    sepb := 0x20 :: List.replicate (cfg.sepCap - 1) 0
    repeatCnt := 0
    maxCnt := 0
    er := ErrorRecord.clear }

/-- An instance right after reset, with no host event to come. -/
def State.resetFor (cfg : Config) : State :=
  { Arch.reset cfg with cfg := cfg, inbox := [], replies := [], faultMark := false }

/-- The machine right after reset (R48, R250). DESIGN CHOICE (log 4): of the legal instances, the one the
spec names for tests. -/
def State.reset : State := State.resetFor Config.testInstance

end Sys2Proof.Machine
end

