-- ==== Sys2Proof/Machine/Flags.lean ====
section
/-! DEFINITION. The one status flag of the CORE, `STATUS.ERR` (10_state R30), and the error record a fault
writes (60_exceptions R221, R226). -/

namespace Sys2Proof.Machine

/-- The code `ERR` takes (R221). -/
def CoreFault.code : CoreFault → BitVec 4
  | .rangeError _ _ => 1
  | .signError _ _ => 2
  | .oddNibbleError _ _ => 3
  | .invalidHexError _ _ => 4
  | .parseLiteralError _ _ => 5
  | .unsupportedWidthError => 6
  | .illegalCommand => 7
  | .lengthError _ _ => 8
  | .capacityError _ _ => 9
  | .capacityWrite _ => 9

/-- A count in a 32-bit register of the record; one that does not fit is recorded as 2^32 - 1
(R226, last sentence). -/
def sat32 (n : Nat) : Word := BitVec.ofNat 32 (min n (2 ^ 32 - 1))

/-- `ECMD` (R31): the command word, or 0 when the faulting write is not to `CMD`. -/
def CoreFault.ecmd (w : Word) : CoreFault → Word
  | .capacityWrite _ => 0
  | _ => w

/-- `EBITS` (R32). -/
def CoreFault.ebits : CoreFault → Word
  | .rangeError _ bits => sat32 bits
  | .signError _ bits => sat32 bits
  | _ => 0

/-- `EPOS` (R33). -/
def CoreFault.epos : CoreFault → Word
  | .oddNibbleError pos _ => sat32 pos
  | .invalidHexError pos _ => sat32 pos
  | .parseLiteralError pos _ => sat32 pos
  | .lengthError present _ => sat32 present
  | .capacityError needed _ => sat32 needed
  | .capacityWrite index => index.setWidth 32
  | _ => 0

/-- `ELEN` (R33). -/
def CoreFault.elen : CoreFault → Word
  | .oddNibbleError _ len => sat32 len
  | .invalidHexError _ len => sat32 len
  | .parseLiteralError _ len => sat32 len
  | .lengthError _ required => sat32 required
  | .capacityError _ free => sat32 free
  | _ => 0

/-- `ERRVAL` (R38): the offending value, which always fits (R38; 90_conflicts C7). -/
def CoreFault.errval : CoreFault → Scalar
  | .rangeError v _ => BitVec.ofInt 129 v
  | .signError v _ => BitVec.ofInt 129 v
  | _ => 0

/-- The record of a fault met by the command word `w` (R226). -/
def CoreFault.record (w : Word) (k : CoreFault) : ErrorRecord :=
  { err := k.code, ecmd := k.ecmd w, ebits := k.ebits, epos := k.epos, elen := k.elen
    errval := k.errval }

/-- FAULTED: `STATUS.ERR` is not 0 (R30). -/
def State.faulted (s : State) : Bool := s.er.err != 0

end Sys2Proof.Machine
end

