-- ==== Sys2Proof/Machine/Ops.lean ====
section
/-! DEFINITION. The named operations on the state: one update per place, fault entry (60_exceptions R227),
the FAULTED gate (10_state R45), the capacity test (R231), CLR and reset (R181, R251), and how a command
ends. There is no addressable memory (20_memory R60, R61; log 10). -/

namespace Sys2Proof.Machine

/-- `VAL <- v`. -/
def State.withVal (s : State) (v : Scalar) : State := { s with val := v }

/-- `TIN <- q`. -/
def State.withTin (s : State) (q : List Byte) : State := { s with tin := q }

/-- `BSEQ <- q`. -/
def State.withBseq (s : State) (q : List Byte) : State := { s with bseq := q }

/-- `TOUT <- q`. -/
def State.withTout (s : State) (q : List Byte) : State := { s with tout := q }

/-- `SEP_LEN <- d`. -/
def State.withSepLen (s : State) (d : Word) : State := { s with sepLen := d }

/-- The registers `SEPB` take the bytes `b`. -/
def State.withSepb (s : State) (b : List Byte) : State := { s with sepb := b }

/-- `REPEAT <- d`. -/
def State.withRepeat (s : State) (d : Word) : State := { s with repeatCnt := d }

/-- `MAXCNT <- d`. -/
def State.withMaxCnt (s : State) (d : Word) : State := { s with maxCnt := d }

/-- The host's events still to come. -/
def State.withInbox (s : State) (es : List HostEvent) : State := { s with inbox := es }

/-- A `reg_read` returns `v` (log 2). -/
def State.reply (s : State) (v : Word) : State := { s with replies := s.replies ++ [v] }

/-- Fault entry (R227): the write that met fault `k` has no effect but the error record, written whole
(R226); the mark of R239 is set. `w` is the command word, 0 for a write to another register (R31). -/
def State.raise (s : State) (w : Word) (k : CoreFault) : State :=
  { s with er := k.record w, faultMark := true }

/-- What CLR and reset do (R181, R237, R250, R251): every piece of architectural state takes its reset
value. The model's own fields are outside the CORE and stay (log 6, log 7). This is also the only way
out of FAULTED (R237): there is no return from a fault. -/
def State.clear (s : State) : State := { s with toArch := Arch.reset s.cfg }

/-- The FAULTED gate (R45): while `ERR` is not 0 a write is ignored. -/
def gated (s t : State) : State := if s.faulted then s else t

/-- How a command ends: behind the FAULTED gate (R45), with its effects, or by fault entry in the state
it started from (R227 a). `encode i` is the command word (R31; log 8). -/
def runCommand (i : Instr) (s : State) (r : Except CoreFault State) :
    Host.Outcome State Fault Refusal :=
  .next (gated s (match r with
    | .ok t => t
    | .error k => s.raise (encode i) k))

/-- The capacity test of a command (R231 d, e), made once, on all it would append: `len` bytes are in the
queue of capacity `cap`, and `needed` more must fit. -/
def roomFor (len cap needed : Nat) : Except CoreFault Unit :=
  if len + needed ≤ cap then .ok () else .error (.capacityError needed (cap - len))

/-- One byte appended to a queue by a register write (R39, R40): the low byte of the data. -/
def pushByte (q : List Byte) (d : Word) : List Byte := q ++ [d.extractLsb' 0 8]

end Sys2Proof.Machine
end

