-- ==== Sys2Proof/Machine/Operands.lean ====
section
/-! DEFINITION. The operand forms of the commands: the width a width code selects (30_encoding R84;
40_scalar_codec R100), the scalar in `VAL` (10_state R21), the separator (R25) and the counts
(44_operations R192, R195). -/

namespace Sys2Proof

/-- The width a width code selects (R84): codes 5, 6 and 7 select none. -/
def Width.ofCode (wc : BitVec 3) : Option Width :=
  match wc.toNat with
  | 0 => some .w8
  | 1 => some .w16
  | 2 => some .w32
  | 3 => some .w64
  | 4 => some .w128
  | _ => none

/-- `width_bytes` (R84, R100): 1, 2, 4, 8, 16. -/
def Width.bytes : Width → Nat
  | .w8 => 1
  | .w16 => 2
  | .w32 => 4
  | .w64 => 8
  | .w128 => 16

/-- The width in bits (R84): 8, 16, 32, 64, 128. -/
def Width.bits (w : Width) : Nat := 8 * w.bytes

end Sys2Proof

namespace Sys2Proof.Machine

/-- The width a command's fields select. The decoder has rejected the codes that select none (R81 step 3),
so the fault here is met only by an instruction that no word decodes to (log 9). -/
def widthOf (f : Fields) : Except CoreFault Width :=
  match Width.ofCode f.wc with
  | some w => .ok w
  | none => .error .unsupportedWidthError

/-- `signed_129(VAL)` (R21, R112). -/
def State.scalar (s : State) : Int := s.val.toInt

/-- `SEP` = `[SEPB[0], ..., SEPB[SEP_LEN - 1]]` (R25). -/
def State.separator (s : State) : List Byte := s.sepb.take s.sepLen.toNat

/-- How often PACKOP uses its pattern (R192): `REPEAT` times from 2 on, once for 0 and 1. -/
def State.repetitions (s : State) : Nat := if 2 ≤ s.repeatCnt.toNat then s.repeatCnt.toNat else 1

/-- How many of `k` complete chunks UNPACKOP prints (R195): at most `MAXCNT` of them when `LIM` is 1. -/
def State.printedCount (s : State) (lim : Bool) (k : Nat) : Nat :=
  if lim && decide (s.maxCnt.toNat < k) then s.maxCnt.toNat else k

end Sys2Proof.Machine
end

