-- ==== Sys2Proof/Machine/Codec.lean ====
section
/-! DEFINITION. The Scalar Codec: `pack` and `unpack` as pure functions over all integers
(40_scalar_codec R100 to R109). They are defined at the five valid widths only (R5, R100). -/

namespace Sys2Proof.Machine

/-- `umax(bits) + 1` = 2^bits (R101). -/
def modulus (w : Width) : Nat := 2 ^ w.bits

/-- 2^(bits-1), so that `smin(bits)` is minus this and `smax(bits)` is this less one (R101). -/
def halfModulus (w : Width) : Nat := 2 ^ (w.bits - 1)

/-- Stage 1 of `pack` (R102): the range check, made only if `strict`. -/
def packCheck (v : Int) (w : Width) (signed strict : Bool) : Except CoreFault Unit :=
  if strict then
    if signed then
      if v < -(halfModulus w : Int) ∨ v > (halfModulus w : Int) - 1 then
        .error (.rangeError v w.bits)
      else .ok ()
    else if v < 0 then .error (.signError v w.bits)
    else if v > (modulus w : Int) - 1 then .error (.rangeError v w.bits)
    else .ok ()
  else .ok ()

/-- Stage 2 of `pack` (R103): `v mod 2^bits`, in either mode. -/
def maskedMagnitude (v : Int) (w : Width) : Nat := (v % (modulus w : Int)).toNat

/-- The weight, in bytes, of the byte at index `i` of `n` (R104, R108): `i` for little, `n-1-i` for big. -/
def byteWeight (e : Endian) (n i : Nat) : Nat :=
  match e with
  | .little => i
  | .big => n - 1 - i

/-- Stage 3 of `pack` (R104): the magnitude split into `n` bytes. -/
def splitBytes (e : Endian) (n m : Nat) : List Byte :=
  (List.range n).map fun i => BitVec.ofNat 8 (m / 2 ^ (8 * byteWeight e n i))

/-- `pack(v, bits, e, signed, strict)` (R105). -/
def pack (v : Int) (w : Width) (e : Endian) (signed strict : Bool) :
    Except CoreFault (List Byte) := do
  packCheck v w signed strict
  return splitBytes e w.bytes (maskedMagnitude v w)

/-- Stage 1 of `unpack` (R108): the magnitude the first `n` bytes spell. -/
def joinBytes (e : Endian) (n : Nat) (b : List Byte) : Nat :=
  ((List.range n).map fun i => (b.getD i 0).toNat * 2 ^ (8 * byteWeight e n i)).sum

/-- `unpack(b, bits, e, signed)` (R108, R109), applied only to `width_bytes` bytes (R107). -/
def unpack (b : List Byte) (w : Width) (e : Endian) (signed : Bool) : Int :=
  let m := joinBytes e w.bytes b
  if signed && decide (halfModulus w ≤ m) then (m : Int) - (modulus w : Int) else (m : Int)

end Sys2Proof.Machine
end

