-- ==== Sys2Proof/Machine/Text.lean ====
section
/-! DEFINITION. Character codes and hexadecimal digits (00_scope R12). A byte of 0x80 or
more is an ordinary character: no digit here, no sign, no prefix, no separator in HexParser.lean. -/

namespace Sys2Proof.Machine

/-- `hexval(c)`: the value of a hexadecimal digit, of either case (R12). -/
def hexval (c : Byte) : Option Nat :=
  let n := c.toNat
  if 0x30 ≤ n ∧ n ≤ 0x39 then some (n - 0x30)
  else if 0x41 ≤ n ∧ n ≤ 0x46 then some (n - 0x41 + 10)
  else if 0x61 ≤ n ∧ n ≤ 0x66 then some (n - 0x61 + 10)
  else none

/-- `ishex(c)`: `hexval(c)` is defined (R12). -/
def ishex (c : Byte) : Bool := (hexval c).isSome

/-- The value of a byte already known to be a hexadecimal digit. -/
def nibble (c : Byte) : Nat := (hexval c).getD 0

/-- `isdec(c)` (R12). -/
def isdec (c : Byte) : Bool := decide (0x30 ≤ c.toNat ∧ c.toNat ≤ 0x39)

/-- `hexdigit(n, upper)` for `n` in 0 .. 15 (R12). -/
def hexdigit (n : Nat) (upper : Bool) : Byte :=
  if n < 10 then BitVec.ofNat 8 (0x30 + n)
  else if upper then BitVec.ofNat 8 (0x41 + (n - 10))
  else BitVec.ofNat 8 (0x61 + (n - 10))

/-- The code of a decimal digit `n` in 0 .. 9 (R12). -/
def decdigit (n : Nat) : Byte := BitVec.ofNat 8 (0x30 + n)

/-- "Newline" is the single byte 0x0A (R12). -/
def newline : Byte := 0x0A

/-- The sign byte `-` (R12). -/
def minus : Byte := 0x2D

/-- The sign byte `+` (R12). -/
def plus : Byte := 0x2B

/-- The text begins with `0x` or `0X` (R133, R170). -/
def hasHexPrefix : List Byte → Bool
  | a :: b :: _ => a == 0x30 && (b == 0x78 || b == 0x58)
  | _ => false

end Sys2Proof.Machine
end

