-- ==== Sys2Proof/Machine/Formatter.lean ====
section
/-! DEFINITION. The Byte Formatter: `render` as a pure, total function (42_byte_formatter R150 to R156). -/

namespace Sys2Proof.Machine

/-- `hh(x, upper)` (R151): two hexadecimal digits, high nibble first. -/
def hexPair (upper : Bool) (x : Byte) : List Byte :=
  [hexdigit (x.toNat / 16) upper, hexdigit (x.toNat % 16) upper]

/-- `\xHH` (R154): backslash, a lowercase `x`, the hex pair. -/
def escapeByte (upper : Bool) (x : Byte) : List Byte := [0x5C, 0x78] ++ hexPair upper x

/-- `render(b, fmt, sep, upper)` (R152 to R155). -/
def render (b : List Byte) (fmt : Format) (sep : List Byte) (upper : Bool) : List Byte :=
  match fmt with
  | .raw => b
  | .hex => sep.intercalate (b.map (hexPair upper)) ++ [newline]
  | .cEsc => b.flatMap (escapeByte upper) ++ [newline]
  | .pyEsc => [0x62, 0x22] ++ b.flatMap (escapeByte upper) ++ [0x22] ++ [newline]

/-- The length of a rendering from the lengths of the sequence and the separator (R156). -/
def renderLength (len : Nat) (fmt : Format) (sepLength : Nat) : Nat :=
  match fmt with
  | .raw => len
  | .hex => if len = 0 then 1 else 2 * len + sepLength * (len - 1) + 1
  | .cEsc => 4 * len + 1
  | .pyEsc => 4 * len + 4

/-- `rep(p, k)` (R10): `k` copies of `p`, end to end; of an empty `p` none is made (R192). -/
def repeatBytes (p : List Byte) (k : Nat) : List Byte :=
  if p.isEmpty then [] else (List.replicate k p).flatten

/-- `k` copies of `p` rendered and appended to `TOUT` behind the capacity test, which is decided from
lengths alone before any copy is made (R190, R231; log 11). The result is the new `TOUT`. -/
def appendRendered (s : State) (f : Fields) (p : List Byte) (k : Nat) :
    Except CoreFault (List Byte) := do
  roomFor s.tout.length s.cfg.toutCap (renderLength (k * p.length) f.fmt s.separator.length)
  return s.tout ++ render (repeatBytes p k) f.fmt s.separator f.upper

end Sys2Proof.Machine
end

