-- ==== Sys2Proof/Machine/HexParser.lean ====
section
/-! DEFINITION. The Hex Token Parser: `parse` as a pure function of the text and the parameter `WS_SET`
(41_hex_token_parser R130 to R136). -/

namespace Sys2Proof.Machine

/-- The delimiters `:`, `,`, `-`, `;` (R131). -/
def isDelimiter (c : Byte) : Bool := c == 0x3A || c == 0x2C || c == 0x2D || c == 0x3B

/-- A byte that counts as whitespace (R131): one of `WS_SET`, but never one of 0x80 or more, which is an
ordinary character everywhere (R12; log 17). DESIGN CHOICE (log 19): 0x00 is whitespace exactly when `WS_SET`
lists it, so that R268 holds for the default set and for every other without 0x00. -/
def isWhitespace (ws : List Byte) (c : Byte) : Bool := ws.contains c && decide (c.toNat < 0x80)

/-- `issep(c)` (R131): whitespace or a delimiter. -/
def isSep (ws : List Byte) (c : Byte) : Bool := isWhitespace ws c || isDelimiter c

/-- The raw tokens of a text with their start indices (R132). `pos` is the index of the next byte and
`cur` the non-separator bytes directly before it. -/
def rawTokens (ws : List Byte) (pos : Nat) (cur : List Byte) : List Byte → List (Nat × List Byte)
  | [] => if cur.isEmpty then [] else [(pos - cur.length, cur)]
  | c :: t =>
    if isSep ws c then
      if cur.isEmpty then rawTokens ws (pos + 1) [] t
      else (pos - cur.length, cur) :: rawTokens ws (pos + 1) [] t
    else rawTokens ws (pos + 1) (cur ++ [c]) t

/-- The stripped token (R133): at most one `0x` or `0X` prefix is removed. -/
def stripPrefix (tok : List Byte) : List Byte := if hasHexPrefix tok then tok.drop 2 else tok

/-- Two hexadecimal digits a byte, the high nibble first (R136). -/
def hexPairs : List Byte → List Byte
  | c0 :: c1 :: rest => BitVec.ofNat 8 (16 * nibble c0 + nibble c1) :: hexPairs rest
  | _ => []

/-- One raw token: the length check (R134), then the digit check (R135), then the bytes (R136). A token
that is empty after stripping gives no bytes (R133). -/
def parseToken (pos : Nat) (tok : List Byte) : Except CoreFault (List Byte) :=
  let s := stripPrefix tok
  if s.length % 2 = 1 then .error (.oddNibbleError pos tok.length)
  else if s.all ishex then .ok (hexPairs s)
  else .error (.invalidHexError pos tok.length)

/-- The tokens from left to right; the first that fails ends the parse (R136). -/
def parseTokens : List (Nat × List Byte) → Except CoreFault (List Byte)
  | [] => .ok []
  | (pos, tok) :: rest => do
    let b ← parseToken pos tok
    let bs ← parseTokens rest
    return b ++ bs

/-- `parse(t)` (R136). -/
def parse (ws t : List Byte) : Except CoreFault (List Byte) := parseTokens (rawTokens ws 0 [] t)

end Sys2Proof.Machine
end

