-- ==== Sys2Proof/Machine/Literal.lean ====
section
/-! DEFINITION. Scalar literals, argument framing and decimal text as pure functions
(43_support_commands R170 to R176). -/

namespace Sys2Proof.Machine

/-- A hexadecimal literal (R170): `0x` or `0X` and at least one hex digit, nothing else. -/
def isHexLiteral (s : List Byte) : Bool :=
  hasHexPrefix s && decide (3 ≤ s.length) && (s.drop 2).all ishex

/-- The text after one optional sign byte (R170). -/
def unsignedPart : List Byte → List Byte
  | c :: t => if c == plus || c == minus then t else c :: t
  | [] => []

/-- A decimal literal (R170): one optional sign and at least one decimal digit, nothing else. -/
def isDecLiteral (s : List Byte) : Bool :=
  !(unsignedPart s).isEmpty && (unsignedPart s).all isdec

/-- The number hexadecimal digits spell, most significant first (R172). -/
def hexNumber (ds : List Byte) : Nat := ds.foldl (fun a c => a * 16 + nibble c) 0

/-- The number decimal digits spell, most significant first (R172). -/
def decNumber (ds : List Byte) : Nat := ds.foldl (fun a c => a * 10 + (c.toNat - 0x30)) 0

/-- The value of a literal before the range check (R172); `none` if the text is no literal (R170). -/
def literalValue (s : List Byte) : Option Int :=
  if isHexLiteral s then some (hexNumber (s.drop 2))
  else if isDecLiteral s then
    if s.head? == some minus then some (-(decNumber (unsignedPart s) : Int))
    else some (decNumber (unsignedPart s))
  else none

/-- `literal(s, pos)` (R172, R173): a text that is no literal, or whose value is outside the scalar
domain, raises ParseLiteralError. -/
def literal (s : List Byte) (pos : Nat) : Except CoreFault Int :=
  match literalValue s with
  | some v => if smin ≤ v ∧ v ≤ smax then .ok v else .error (.parseLiteralError pos s.length)
  | none => .error (.parseLiteralError pos s.length)

/-- The text of the one literal of LIT and SWAPOP: `TIN` less one optional final 0x00 (R171, R197). -/
def dropTerminator (s : List Byte) : List Byte :=
  if s.getLast? == some 0x00 then s.dropLast else s

/-- The fields of a text split at 0x00, with their start indices, the last one discarded if empty (R175).
`pos` is the index of the next byte and `cur` the bytes of the field so far. -/
def splitFields (pos : Nat) (cur : List Byte) : List Byte → List (Nat × List Byte)
  | [] => if cur.isEmpty then [] else [(pos - cur.length, cur)]
  | c :: t =>
    if c == 0x00 then (pos - cur.length, cur) :: splitFields (pos + 1) [] t
    else splitFields (pos + 1) (cur ++ [c]) t

/-- `frame(t)` (R175). -/
def frame (t : List Byte) : List (Nat × List Byte) := splitFields 0 [] t

/-- The base-ten digits of `n` put before `acc`, most significant first; `fuel` above `n` is enough. -/
def decDigits : Nat → Nat → List Byte → List Byte
  | 0, _, acc => acc
  | fuel + 1, n, acc =>
    if n < 10 then decdigit n :: acc else decDigits fuel (n / 10) (decdigit (n % 10) :: acc)

/-- The digits of a non-negative integer, no leading zero, 0 the single digit `0` (R176). -/
def decText (n : Nat) : List Byte := decDigits (n + 1) n []

/-- `dec(v)` (R176). -/
def dec (v : Int) : List Byte :=
  if v < 0 then minus :: decText (-v).toNat else decText v.toNat

/-- One line of decimal output (R177, R194). -/
def decLine (v : Int) : List Byte := dec v ++ [newline]

end Sys2Proof.Machine
end

