-- ==== Sys2Proof/Machine/Operation.lean ====
section
/-! DEFINITION. The meanings of the operation commands PACKOP, UNPACKOP, SWAPOP and PASSOP
(44_operations R190 to R200). -/

namespace Sys2Proof.Machine

/-- PACKOP's loop over its literals (R191): each one parsed and then packed, from left to right; the first
fault met ends it. -/
def packLiterals (w : Width) (f : Fields) : List (Nat × List Byte) → Except CoreFault (List Byte)
  | [] => .ok []
  | (pos, text) :: rest => do
    let v ← literal text pos
    let b ← pack v w f.endian f.signed f.strict
    let bs ← packLiterals w f rest
    return b ++ bs

/-- The byte sequence UNPACKOP and PASSOP work on (R194, R199): `TIN` parsed, or as it stands. -/
def inputBytes (f : Fields) (s : State) : Except CoreFault (List Byte) :=
  match f.infmt with
  | .hexText => parse s.cfg.wsSet s.tin
  | .rawBytes => .ok s.tin

/-- The first `k` chunks of `n` bytes (R194). -/
def chunks (n : Nat) : Nat → List Byte → List (List Byte)
  | 0, _ => []
  | k + 1, b => b.take n :: chunks n k (b.drop n)

/-- UNPACKOP's output (R194, R195): a decimal line for each printed chunk. -/
def unpackLines (s : State) (w : Width) (f : Fields) (b : List Byte) : List Byte :=
  (chunks w.bytes (s.printedCount f.lim (b.length / w.bytes)) b).flatMap
    fun c => decLine (unpack c w f.endian f.signed)

/-- PACKOP (R191, R192). -/
def execPackop (f : Fields) (s : State) : Host.Outcome State Fault Refusal :=
  runCommand (.packop f) s do
    let w ← widthOf f
    let p ← packLiterals w f (frame s.tin)
    let o ← appendRendered s f p s.repetitions
    return (s.withTout o).withTin []

/-- UNPACKOP (R194, R195). -/
def execUnpackop (f : Fields) (s : State) : Host.Outcome State Fault Refusal :=
  runCommand (.unpackop f) s do
    let w ← widthOf f
    let b ← inputBytes f s
    roomFor s.tout.length s.cfg.toutCap (unpackLines s w f b).length
    return (s.withTout (s.tout ++ unpackLines s w f b)).withTin []

/-- SWAPOP (R197): packed big-endian whatever `ENDIAN` says, then reversed. -/
def execSwapop (f : Fields) (s : State) : Host.Outcome State Fault Refusal :=
  runCommand (.swapop f) s do
    let w ← widthOf f
    let v ← literal (dropTerminator s.tin) 0
    let p ← pack v w .big f.signed f.strict
    let o ← appendRendered s f p.reverse 1
    return (s.withTout o).withTin []

/-- PASSOP (R199). -/
def execPassop (f : Fields) (s : State) : Host.Outcome State Fault Refusal :=
  runCommand (.passop f) s do
    let b ← inputBytes f s
    let o ← appendRendered s f b 1
    return (s.withTout o).withTin []

end Sys2Proof.Machine
end

