-- ==== Sys2Proof/Machine/Primitive.lean ====
section
/-! DEFINITION. The meanings of the primitive commands: PACK, UNPACK (40_scalar_codec), HEXPARSE
(41_hex_token_parser), RENDER (42_byte_formatter), LIT, DECOUT, BREV and CLR (43_support_commands). -/

namespace Sys2Proof.Machine

/-- PACK (R110). -/
def execPack (f : Fields) (s : State) : Host.Outcome State Fault Refusal :=
  runCommand (.pack f) s do
    let w ← widthOf f
    let b ← pack s.scalar w f.endian f.signed f.strict
    roomFor s.bseq.length s.cfg.bseqCap w.bytes
    return s.withBseq (s.bseq ++ b)

/-- UNPACK (R113). -/
def execUnpack (f : Fields) (s : State) : Host.Outcome State Fault Refusal :=
  runCommand (.unpack f) s do
    let w ← widthOf f
    if s.bseq.length < w.bytes then .error (.lengthError s.bseq.length w.bytes)
    else
      let v := unpack (s.bseq.take w.bytes) w f.endian f.signed
      return (s.withBseq (s.bseq.drop w.bytes)).withVal (BitVec.ofInt 129 v)

/-- HEXPARSE (R137). -/
def execHexparse (f : Fields) (s : State) : Host.Outcome State Fault Refusal :=
  runCommand (.hexparse f) s do
    let b ← parse s.cfg.wsSet s.tin
    roomFor s.bseq.length s.cfg.bseqCap b.length
    return (s.withBseq (s.bseq ++ b)).withTin []

/-- RENDER (R157). -/
def execRender (f : Fields) (s : State) : Host.Outcome State Fault Refusal :=
  runCommand (.render f) s do
    let o ← appendRendered s f s.bseq 1
    return (s.withTout o).withBseq []

/-- LIT (R171). -/
def execLit (f : Fields) (s : State) : Host.Outcome State Fault Refusal :=
  runCommand (.lit f) s do
    let v ← literal (dropTerminator s.tin) 0
    return (s.withVal (BitVec.ofInt 129 v)).withTin []

/-- DECOUT (R177). -/
def execDecout (f : Fields) (s : State) : Host.Outcome State Fault Refusal :=
  runCommand (.decout f) s do
    roomFor s.tout.length s.cfg.toutCap (decLine s.scalar).length
    return s.withTout (s.tout ++ decLine s.scalar)

/-- BREV (R179). -/
def execBrev (f : Fields) (s : State) : Host.Outcome State Fault Refusal :=
  runCommand (.brev f) s (.ok (s.withBseq s.bseq.reverse))

/-- CLR (R181): the only command that executes while FAULTED, so it stands before no gate. -/
def execClr (_f : Fields) (s : State) : Host.Outcome State Fault Refusal := .next s.clear

end Sys2Proof.Machine
end

