-- ==== Sys2Proof/Machine/Dispatch.lean ====
section
/-! DEFINITION. The meaning of each command, one arm per constructor of `Instr` (30_encoding R85). -/

namespace Sys2Proof.Machine

def exec (i : Instr) (s : State) : Host.Outcome State Fault Refusal :=
  match i with
  | .pack f => Sys2Proof.Machine.execPack f s
  | .unpack f => Sys2Proof.Machine.execUnpack f s
  | .hexparse f => Sys2Proof.Machine.execHexparse f s
  | .render f => Sys2Proof.Machine.execRender f s
  | .lit f => Sys2Proof.Machine.execLit f s
  | .decout f => Sys2Proof.Machine.execDecout f s
  | .brev f => Sys2Proof.Machine.execBrev f s
  | .packop f => Sys2Proof.Machine.execPackop f s
  | .unpackop f => Sys2Proof.Machine.execUnpackop f s
  | .swapop f => Sys2Proof.Machine.execSwapop f s
  | .passop f => Sys2Proof.Machine.execPassop f s
  | .clr f => Sys2Proof.Machine.execClr f s

end Sys2Proof.Machine
end

