-- ==== Sys2Proof/Machine/Window.lean ====
section
/-! DEFINITION. The register window (10_state R27 to R45): which register an index selects, what a read
returns and removes, what a write does, and the host's transactions. -/

namespace Sys2Proof.Machine

/-- The registers of the window (R28). -/
inductive Reg where
  | cmd
  | status
  | ecmd
  | ebits
  | epos
  | elen
  | repeatCnt
  | maxCnt
  /-- `VAL0` to `VAL3`. -/
  | valWord (j : Nat)
  /-- `VAL4`. -/
  | valTop
  /-- `ERRVAL0` to `ERRVAL3`. -/
  | errvalWord (j : Nat)
  /-- `ERRVAL4`. -/
  | errvalTop
  | tinData
  | tinLen
  | bseqData
  | bseqLen
  | toutData
  | toutLen
  | sepLen
  /-- `SEPB[k]`, `k < SEP_CAP`. -/
  | sepByte (k : Nat)
  /-- An index of class RES (R44). -/
  | reserved
deriving DecidableEq, Repr

/-- The register map (R28). -/
def Reg.ofIndex (cfg : Config) (i : RegIndex) : Reg :=
  match i.toNat with
  | 0x00 => .cmd
  | 0x01 => .status
  | 0x02 => .ecmd
  | 0x03 => .ebits
  | 0x04 => .epos
  | 0x05 => .elen
  | 0x06 => .repeatCnt
  | 0x07 => .maxCnt
  | 0x08 => .valWord 0
  | 0x09 => .valWord 1
  | 0x0A => .valWord 2
  | 0x0B => .valWord 3
  | 0x0C => .valTop
  | 0x10 => .errvalWord 0
  | 0x11 => .errvalWord 1
  | 0x12 => .errvalWord 2
  | 0x13 => .errvalWord 3
  | 0x14 => .errvalTop
  | 0x18 => .tinData
  | 0x19 => .tinLen
  | 0x1A => .bseqData
  | 0x1B => .bseqLen
  | 0x1C => .toutData
  | 0x1D => .toutLen
  | 0x1E => .sepLen
  | n => if 0x40 ≤ n ∧ n - 0x40 < cfg.sepCap then .sepByte (n - 0x40) else .reserved

/-- Word `j` of a scalar, `j` in 0 .. 3 (R36): bits `32j+31 : 32j`. -/
def scalarWord (v : Scalar) (j : Nat) : Word := v.extractLsb' (32 * j) 32

/-- The top word of a scalar (R37): bit 128, replicated. -/
def scalarTop (v : Scalar) : Word := if v.getLsbD 128 then BitVec.allOnes 32 else 0

/-- Word `j` of a scalar replaced, the other bits unchanged (R36). -/
def setScalarWord (v : Scalar) (j : Nat) (d : Word) : Scalar :=
  (v &&& ~~~((BitVec.allOnes 32).setWidth 129 <<< (32 * j))) ||| (d.setWidth 129 <<< (32 * j))

/-- Bit 128 of a scalar replaced by bit 0 of `d`, the other bits unchanged (R37). -/
def setScalarTop (v : Scalar) (d : Word) : Scalar := d.extractLsb' 0 1 ++ v.extractLsb' 0 128

/-- A queue length as a register shows it (R39 to R41). Every legal capacity fits (log 5). -/
def lengthWord (q : List Byte) : Word := BitVec.ofNat 32 q.length

/-- The head of a queue as a data register shows it (R40, R41): the byte zero-extended, 0 when empty. -/
def headWord (q : List Byte) : Word := (q.headD 0).setWidth 32

/-- What `reg_read` of a register returns (R29 to R44). -/
def readValue (s : State) : Reg → Word
  | .cmd => 0
  | .status => s.er.err.setWidth 32
  | .ecmd => s.er.ecmd
  | .ebits => s.er.ebits
  | .epos => s.er.epos
  | .elen => s.er.elen
  | .repeatCnt => s.repeatCnt
  | .maxCnt => s.maxCnt
  | .valWord j => scalarWord s.val j
  | .valTop => scalarTop s.val
  | .errvalWord j => scalarWord s.er.errval j
  | .errvalTop => scalarTop s.er.errval
  | .tinData => 0
  | .tinLen => lengthWord s.tin
  | .bseqData => headWord s.bseq
  | .bseqLen => lengthWord s.bseq
  | .toutData => headWord s.tout
  | .toutLen => lengthWord s.tout
  | .sepLen => s.sepLen
  | .sepByte k => (s.sepb.getD k 0).setWidth 32
  | .reserved => 0

/-- What `reg_read` of a register removes (R40, R41, R68): the two RP registers pop; an empty pop changes
nothing; no other read has a side effect. -/
def afterRead (s : State) : Reg → State
  | .bseqData => s.withBseq s.bseq.tail
  | .toutData => s.withTout s.tout.tail
  | _ => s

/-- `reg_read(i)` (R27): the same whether FAULTED or not (R45); it never faults (R220). -/
def readReg (i : RegIndex) (s : State) : State :=
  (afterRead s (Reg.ofIndex s.cfg i)).reply (readValue s (Reg.ofIndex s.cfg i))

/-- What a write of `d` to register `i` other than `CMD` does while not FAULTED (R30 to R44). A capacity
fault records the index written, and `ECMD` 0 (R31, R226). -/
def storeReg (i : RegIndex) (d : Word) (s : State) : Reg → State
  | .cmd => s
  | .status => s
  | .ecmd => s
  | .ebits => s
  | .epos => s
  | .elen => s
  | .repeatCnt => s.withRepeat d
  | .maxCnt => s.withMaxCnt d
  | .valWord j => s.withVal (setScalarWord s.val j d)
  | .valTop => s.withVal (setScalarTop s.val d)
  | .errvalWord _ => s
  | .errvalTop => s
  | .tinData =>
    if s.tin.length < s.cfg.tinCap then s.withTin (pushByte s.tin d)
    else s.raise 0 (.capacityWrite i)
  | .tinLen => s
  | .bseqData =>
    if s.bseq.length < s.cfg.bseqCap then s.withBseq (pushByte s.bseq d)
    else s.raise 0 (.capacityWrite i)
  | .bseqLen => s
  | .toutData => s
  | .toutLen => s
  | .sepLen => if d.toNat ≤ s.cfg.sepCap then s.withSepLen d else s.raise 0 (.capacityWrite i)
  | .sepByte k => s.withSepb (s.sepb.set k (d.extractLsb' 0 8))
  | .reserved => s

/-- The fault a rejected command word raises (R81). -/
def decodeFault : DecodeError → CoreFault
  | .illegalCommand => .illegalCommand
  | .unsupportedWidth => .unsupportedWidthError

/-- A write of the command word `d` to `CMD` (R29, R81): the command it decodes to is executed, or the
decoder's fault is taken. While FAULTED nothing but CLR has an effect (R45): every other meaning stands
behind the gate, and so does the decoder's fault. -/
def writeCmd (d : Word) (s : State) : Host.Outcome State Fault Refusal :=
  match decode d with
  | .ok i => exec i s
  | .error e => .next (gated s (s.raise d (decodeFault e)))

/-- `reg_write(i, d)` (R27, R45). -/
def writeReg (i : RegIndex) (d : Word) (s : State) : Host.Outcome State Fault Refusal :=
  match Reg.ofIndex s.cfg i with
  | .cmd => writeCmd d s
  | r => .next (gated s (storeReg i d s r))

/-- One event from outside (R7, R251). -/
def perform (e : HostEvent) (s : State) : Host.Outcome State Fault Refusal :=
  match e with
  | .regWrite i d => writeReg i d s
  | .regRead i => .next (readReg i s)
  | .reset => .next s.clear

/-- The host event that writes the command word `w` to `CMD` (R29). -/
def commandEvent (w : Word) : HostEvent := .regWrite 0 w

end Sys2Proof.Machine
end

