-- ==== Sys2Proof/Machine/Step.lean ====
section
/-! DEFINITION. One step: the host's next transaction, whole and indivisible (00_scope R7; 20_memory R67). -/

namespace Sys2Proof.Machine

/-- One step takes the first host event from the inbox and performs it. With no event to come the CORE is
idle, and nothing changes (R7, R241; log 1). -/
def step (s : State) : Host.Outcome State Fault Refusal :=
  match s.inbox with
  | [] => .next s
  | e :: rest => perform e (s.withInbox rest)

/-- The state in which the host's next transaction writes the command word `w mod 2^nbits` to `CMD`, so
that the very next step executes it (R29, R46; log 3). The host's other events come after it. -/
def State.withFetchWord (s : State) (nbits w : Nat) : State :=
  s.withInbox (commandEvent (BitVec.ofNat 32 (w % 2 ^ nbits)) :: s.inbox)

end Sys2Proof.Machine
end

