-- ==== Sys2Proof/Machine/Assembler.lean ====
section
/-! DEFINITION. Assembler lines, the width shorthands and the host-script statements
(30_encoding R86, R90 to R92), and the sequence that stands for one invocation of the source's process
(70_reset_and_hazards R254). Nothing in the CORE depends on this file. -/

namespace Sys2Proof.Machine

/-- The twelve commands by name (R85). -/
inductive Command where
  | pack
  | unpack
  | hexparse
  | render
  | lit
  | decout
  | brev
  | packop
  | unpackop
  | swapop
  | passop
  | clr
deriving DecidableEq, Repr

/-- The fields of a command word other than `OP` (R82). -/
inductive FieldName where
  | wc
  | endian
  | signed
  | strict
  | fmt
  | upper
  | infmt
  | lim
deriving DecidableEq, Repr

/-- A modifier of an assembler line (R90). -/
inductive Modifier where
  | width (w : Width)
  | order (e : Endian)
  | sign (signed : Bool)
  | policy (strict : Bool)
  | format (fmt : Format)
  | letters (upper : Bool)
  | input (infmt : InFormat)
  | lim
deriving DecidableEq, Repr

/-- A mnemonic: a command, or one of the ten width shorthands (R91). -/
inductive Mnemonic where
  | command (c : Command)
  | packopShort (w : Width)
  | unpackopShort (w : Width)
deriving DecidableEq, Repr

/-- The command with these fields. -/
def Command.instr (c : Command) (f : Fields) : Instr :=
  match c with
  | .pack => .pack f
  | .unpack => .unpack f
  | .hexparse => .hexparse f
  | .render => .render f
  | .lit => .lit f
  | .decout => .decout f
  | .brev => .brev f
  | .packop => .packop f
  | .unpackop => .unpackop f
  | .swapop => .swapop f
  | .passop => .passop f
  | .clr => .clr f

/-- The fields a command uses (the table of R86). -/
def Command.usedFields : Command → List FieldName
  | .pack => [.wc, .endian, .signed, .strict]
  | .unpack => [.wc, .endian, .signed]
  | .hexparse => []
  | .render => [.fmt, .upper]
  | .lit => []
  | .decout => []
  | .brev => []
  | .packop => [.wc, .endian, .signed, .strict, .fmt, .upper]
  | .unpackop => [.wc, .endian, .signed, .infmt, .lim]
  | .swapop => [.wc, .signed, .strict, .fmt, .upper]
  | .passop => [.fmt, .upper, .infmt]
  | .clr => []

/-- Two words' fields agree on the field named. -/
def agreeOn (f g : Fields) : FieldName → Bool
  | .wc => f.wc == g.wc
  | .endian => f.endian == g.endian
  | .signed => f.signed == g.signed
  | .strict => f.strict == g.strict
  | .fmt => f.fmt == g.fmt
  | .upper => f.upper == g.upper
  | .infmt => f.infmt == g.infmt
  | .lim => f.lim == g.lim

/-- The fields whose modifier may stand on a line: those the command uses, and the byte order of SWAPOP,
which the command ignores but R198 (a) writes (log 16). -/
def Command.writableFields : Command → List FieldName
  | .swapop => .endian :: Command.usedFields .swapop
  | c => c.usedFields

/-- The fields whose modifier must be written (R90). -/
def Command.requiredFields : Command → List FieldName
  | .pack => [.wc]
  | .unpack => [.wc]
  | .hexparse => []
  | .render => [.fmt]
  | .lit => []
  | .decout => []
  | .brev => []
  | .packop => [.wc, .fmt]
  | .unpackop => [.wc, .infmt]
  | .swapop => [.wc, .fmt]
  | .passop => [.fmt, .infmt]
  | .clr => []

/-- The field a modifier sets (R90). -/
def Modifier.field : Modifier → FieldName
  | .width _ => .wc
  | .order _ => .endian
  | .sign _ => .signed
  | .policy _ => .strict
  | .format _ => .fmt
  | .letters _ => .upper
  | .input _ => .infmt
  | .lim => .lim

/-- The width code of a width (R84). -/
def widthCode : Width → BitVec 3
  | .w8 => 0
  | .w16 => 1
  | .w32 => 2
  | .w64 => 3
  | .w128 => 4

/-- Every field zero (R90: a modifier that is absent leaves its field 0). -/
def zeroFields : Fields :=
  { wc := 0, endian := .little, signed := false, strict := false, fmt := .raw, upper := false
    infmt := .hexText, lim := false }

/-- The field a modifier names takes its value (R90). -/
def Modifier.set (f : Fields) : Modifier → Fields
  | .width w => { f with wc := widthCode w }
  | .order e => { f with endian := e }
  | .sign b => { f with signed := b }
  | .policy b => { f with strict := b }
  | .format fmt => { f with fmt := fmt }
  | .letters b => { f with upper := b }
  | .input i => { f with infmt := i }
  | .lim => { f with lim := true }

/-- A line is in order: each modifier may stand on it, none sets a field twice, and none that is required
is missing (R90; log 16). -/
def Command.accepts (c : Command) (ms : List Modifier) : Bool :=
  ms.all (fun m => c.writableFields.contains m.field) &&
    decide ((ms.map Modifier.field).Nodup) &&
    c.requiredFields.all (fun n => (ms.map Modifier.field).contains n)

/-- The command word of a line (R90, R93); `none` is an assembly error. -/
def Command.assemble (c : Command) (ms : List Modifier) : Option Word :=
  if c.accepts ms then some (encode (c.instr (ms.foldl Modifier.set zeroFields))) else none

/-- The command word of a line whose mnemonic may be a width shorthand (R91, R201). -/
def Mnemonic.assemble (ms : List Modifier) : Mnemonic → Option Word
  | .command c => c.assemble ms
  | .packopShort w => Command.assemble .packop (.width w :: ms)
  | .unpackopShort w => Command.assemble .unpackop (.width w :: ms)

/-- How the assembler writes each mnemonic (R85, R91). -/
def mnemonicNames : List (String × Mnemonic) :=
  [("PACK", .command .pack), ("UNPACK", .command .unpack), ("HEXPARSE", .command .hexparse),
   ("RENDER", .command .render), ("LIT", .command .lit), ("DECOUT", .command .decout),
   ("BREV", .command .brev), ("PACKOP", .command .packop), ("UNPACKOP", .command .unpackop),
   ("SWAPOP", .command .swapop), ("PASSOP", .command .passop), ("CLR", .command .clr),
   ("PACKOP8", .packopShort .w8), ("PACKOP16", .packopShort .w16), ("PACKOP32", .packopShort .w32),
   ("PACKOP64", .packopShort .w64), ("PACKOP128", .packopShort .w128),
   ("UNPACKOP8", .unpackopShort .w8), ("UNPACKOP16", .unpackopShort .w16),
   ("UNPACKOP32", .unpackopShort .w32), ("UNPACKOP64", .unpackopShort .w64),
   ("UNPACKOP128", .unpackopShort .w128)]

/-- How the assembler writes each modifier (R90). -/
def modifierNames : List (String × Modifier) :=
  [("w8", .width .w8), ("w16", .width .w16), ("w32", .width .w32), ("w64", .width .w64),
   ("w128", .width .w128), ("le", .order .little), ("be", .order .big), ("u", .sign false),
   ("s", .sign true), ("trunc", .policy false), ("strict", .policy true), ("raw", .format .raw),
   ("hex", .format .hex), ("c", .format .cEsc), ("py", .format .pyEsc), ("lower", .letters false),
   ("upper", .letters true), ("inhex", .input .hexText), ("inraw", .input .rawBytes), ("lim", .lim)]

/-- The command word of a line given as its words (R90, R91). -/
def assembleLine : List String → Option Word
  | [] => none
  | name :: mods => do
    let m ← mnemonicNames.lookup name
    let ms ← mods.mapM fun t => modifierNames.lookup t
    m.assemble ms

/-- The named registers of the window (R28), for `wr NAME, v` and `rd NAME` (R92). -/
def registerNames : List (String × RegIndex) :=
  [("CMD", 0x00), ("STATUS", 0x01), ("ECMD", 0x02), ("EBITS", 0x03), ("EPOS", 0x04), ("ELEN", 0x05),
   ("REPEAT", 0x06), ("MAXCNT", 0x07), ("VAL0", 0x08), ("VAL1", 0x09), ("VAL2", 0x0A), ("VAL3", 0x0B),
   ("VAL4", 0x0C), ("ERRVAL0", 0x10), ("ERRVAL1", 0x11), ("ERRVAL2", 0x12), ("ERRVAL3", 0x13),
   ("ERRVAL4", 0x14), ("TIN_DATA", 0x18), ("TIN_LEN", 0x19), ("BSEQ_DATA", 0x1A), ("BSEQ_LEN", 0x1B),
   ("TOUT_DATA", 0x1C), ("TOUT_LEN", 0x1D), ("SEP_LEN", 0x1E)]
    ++ (List.range 64).map fun k => ("SEPB[" ++ toString k ++ "]", BitVec.ofNat 7 (0x40 + k))

/-- `wr NAME, v` (R92). -/
def wrStatement (name : String) (v : Word) : Option HostEvent :=
  (registerNames.lookup name).map fun i => .regWrite i v

/-- `rd NAME` (R92). -/
def rdStatement (name : String) : Option HostEvent :=
  (registerNames.lookup name).map fun i => .regRead i

/-- The bytes of a quoted script text (R92): `\0`, `\n`, `\t` and `<hh>` as it says, every other character
its own code (characters of code 256 and above do not occur; their low byte stands here, log 16). -/
def scriptBytes : List Char → List Byte
  | '\\' :: '0' :: t => 0x00 :: scriptBytes t
  | '\\' :: 'n' :: t => 0x0A :: scriptBytes t
  | '\\' :: 't' :: t => 0x09 :: scriptBytes t
  | '<' :: h :: l :: '>' :: t =>
    if ishex (BitVec.ofNat 8 h.toNat) && ishex (BitVec.ofNat 8 l.toNat) then
      BitVec.ofNat 8 (16 * nibble (BitVec.ofNat 8 h.toNat) + nibble (BitVec.ofNat 8 l.toNat)) ::
        scriptBytes t
    else 0x3C :: scriptBytes (h :: l :: '>' :: t)
  | c :: t => BitVec.ofNat 8 c.toNat :: scriptBytes t
  | [] => []

/-- `tin "text"` (R92): one write of `TIN_DATA` a byte. -/
def tinStatement (t : List Byte) : List HostEvent := t.map fun c => .regWrite 0x18 (c.setWidth 32)

/-- `bseq [b0 b1 ...]` (R92): one write of `BSEQ_DATA` a byte. -/
def bseqStatement (b : List Byte) : List HostEvent := b.map fun c => .regWrite 0x1A (c.setWidth 32)

/-- `val v` (R37, R92): the five words of `v mod 2^160`, least significant first. DESIGN CHOICE (log 18): R92
defines the statement for a scalar only; for any other integer it is the same five words. -/
def valStatement (v : Int) : List HostEvent :=
  (List.range 5).map fun j =>
    .regWrite (BitVec.ofNat 7 (0x08 + j)) ((BitVec.ofInt 160 v).extractLsb' (32 * j) 32)

/-- `sep "text"` (R92): the bytes at their positions, then the length. DESIGN CHOICE (log 18): R92 does not
say what the statement is for a text of more than 64 bytes, where `0x40 + k` is no window index; it is an
error, `none`. -/
def sepStatement (t : List Byte) : Option (List HostEvent) :=
  if t.length ≤ 64 then
    some ((List.range t.length).map
        (fun k => .regWrite (BitVec.ofNat 7 (0x40 + k)) ((t.getD k 0).setWidth 32))
      ++ [.regWrite 0x1E (BitVec.ofNat 32 t.length)])
  else none

/-- `drain` (R92), issued in state `s`: a read of `TOUT_LEN`, then as many reads of `TOUT_DATA`. -/
def drainStatement (s : State) : List HostEvent :=
  .regRead 0x1D :: List.replicate s.tout.length (.regRead 0x1C)

/-- The sequence that reproduces one invocation of the source's process, steps (1) to (5) of R254: CLR, the
option writes, the input, the operation, and the read of `STATUS`. -/
def invocation (options : List HostEvent) (input : List Byte) (word : Word) : List HostEvent :=
  commandEvent 0x0000000F :: (options ++ tinStatement input ++ [commandEvent word, .regRead 0x01])

end Sys2Proof.Machine
end

