-- ==== Sys2Proof/Safety.lean ====
section
/-! DEFINITION. The terms of the claims: legal instances (00_scope R6), the invariant of the state
(20_memory R73; 60_exceptions R221, R226, R239), runs of host events, and what counts as a successful run
(70_reset_and_hazards R257). -/

namespace Sys2Proof

/-- A byte that may not stand in `WS_SET`: a hexadecimal digit, `x`, `X`, or a delimiter (R6), or a byte of
0x80 or more, which is no whitespace (R12; log 17). DESIGN CHOICE (log 19): every other byte may, 0x00 too,
which R268 calls a non-separator; the model reads that for the default `WS_SET`, which does not hold it. -/
def notWhitespace (c : Byte) : Bool :=
  Machine.ishex c || c == 0x78 || c == 0x58 || Machine.isDelimiter c || decide (0x80 ≤ c.toNat)

/-- The constraints of R6 and R12 on the OPEN parameters. That each capacity fits a 32-bit register is DEDUCED
from R226 (log 5). -/
abbrev Config.Legal (cfg : Config) : Prop :=
  64 ≤ cfg.tinCap ∧ cfg.tinCap < 2 ^ 32 ∧ 16 ≤ cfg.bseqCap ∧ cfg.bseqCap < 2 ^ 32 ∧
    128 ≤ cfg.toutCap ∧ cfg.toutCap < 2 ^ 32 ∧ 1 ≤ cfg.sepCap ∧ cfg.sepCap ≤ 64 ∧
    ∀ c ∈ cfg.wsSet, notWhitespace c = false

end Sys2Proof

namespace Sys2Proof.Machine

/-- A bit width the codec knows (R6), as `EBITS` shows it (R32). -/
def isWidthWord (d : Word) : Bool := d == 8 || d == 16 || d == 32 || d == 64 || d == 128

/-- The shape of the error record (R221, R226): `ERR` is 0 .. 9; with `ERR` 0 the record is clear; a
RangeError or SignError names a width and a value and no position, a SignError a negative value; every
other fault has no width and no value, and UnsupportedWidthError and IllegalCommand no position either. -/
abbrev ErrorRecord.Shape (r : ErrorRecord) : Prop :=
  r.err.toNat ≤ 9 ∧
  (r.err = 0 → r = ErrorRecord.clear) ∧
  ((r.err = 1 ∨ r.err = 2) → isWidthWord r.ebits = true ∧ r.epos = 0 ∧ r.elen = 0) ∧
  (r.err = 2 → r.errval.toInt < 0) ∧
  ((r.err ≠ 1 ∧ r.err ≠ 2) → r.ebits = 0 ∧ r.errval = 0) ∧
  ((r.err = 6 ∨ r.err = 7) → r.epos = 0 ∧ r.elen = 0)

/-- The invariant of the CORE, for every legal instance: each queue obeys its capacity (R73), the separator
its registers and its bound (R25, R42), the error record its shape (R226), and the mark of R239 is set
while FAULTED. -/
abbrev State.Inv (s : State) : Prop :=
  s.cfg.Legal ∧
  s.tin.length ≤ s.cfg.tinCap ∧ s.bseq.length ≤ s.cfg.bseqCap ∧ s.tout.length ≤ s.cfg.toutCap ∧
  s.sepb.length = s.cfg.sepCap ∧ s.sepLen.toNat ≤ s.cfg.sepCap ∧
  s.er.Shape ∧
  (s.faulted = true → s.faultMark = true)

/-- The number a byte sequence spells, least-significant byte first (R108 for Little, said by recursion). -/
def littleValue : List Byte → Nat
  | [] => 0
  | b :: bs => b.toNat + 256 * littleValue bs

/-- `s` after fault entry with the six registers of the record as given (R226, R227). -/
def State.withRecord (s : State) (err : BitVec 4) (ecmd ebits epos elen : Word) (errval : Scalar) :
    State :=
  { s with
    er := { err := err, ecmd := ecmd, ebits := ebits, epos := epos, elen := elen, errval := errval }
    faultMark := true }

/-- A value `pack` accepts in strict mode (R101, R102). -/
abbrev inRange (v : Int) (w : Width) (signed : Bool) : Prop :=
  if signed then -((2 ^ (w.bits - 1) : Nat) : Int) ≤ v ∧ v ≤ ((2 ^ (w.bits - 1) : Nat) : Int) - 1
  else 0 ≤ v ∧ v ≤ ((2 ^ w.bits : Nat) : Int) - 1

/-- A word that decodes as CLR (R81, last sentence): bits 31:15 zero and `OP` 0xF. -/
abbrev isClrWord (d : Word) : Prop := d.extractLsb' 15 17 = 0 ∧ d.extractLsb' 0 4 = 0xF

/-- A list of host events performed in order (R69, R257), stopping where one has no next state. -/
def runEvents : List HostEvent → State → Host.Outcome State Fault Refusal
  | [], s => .next s
  | e :: es, s =>
    match perform e s with
    | .next t => runEvents es t
    | .fault r => .fault r
    | .refused r => .refused r

/-- A run that ends in `s` succeeded (R257): `ERR` is 0 and no fault entry occurred during it (R239). -/
abbrev State.Succeeded (s : State) : Prop := s.er.err = 0 ∧ s.faultMark = false

/-- A run that ends in `s` failed (R257). -/
abbrev State.Failed (s : State) : Prop := s.er.err ≠ 0

end Sys2Proof.Machine
end

