-- ==== Sys2Proof/Certificates/Slice0/Obligations.lean ====
section
/-! DEFINITION. The statements for the provers, from the numbered rules of the spec. -/

open Sys2Proof Sys2Proof.Machine

/-! ### Encoding -/

/-- R81, R82, R85, R93: the decoder reads back every command with every field at every value, the ignored
fields too. -/
def Obligations.DecodeOfEncodeIsIdentity : Prop :=
  ∀ i : Instr, i.wellFormed = true → decode (encode i) = .ok i

/-- R81, R86, R93: a word that decodes is the word of what it decodes to: no bit of it is dropped. -/
def Obligations.EncodeOfDecodeIsIdentity : Prop :=
  ∀ (d : Word) (i : Instr), decode d = .ok i → i.wellFormed = true ∧ encode i = d

/-- R82, R93: the command word is the OR of the fields at their places. -/
def Obligations.CommandWordIsOrOfFields : Prop :=
  ∀ i : Instr, encode i =
    i.opcode.setWidth 32 ||| (i.fields.wc.setWidth 32 <<< 4) |||
    ((BitVec.ofBool i.fields.endian.bit).setWidth 32 <<< 7) |||
    ((BitVec.ofBool i.fields.signed).setWidth 32 <<< 8) |||
    ((BitVec.ofBool i.fields.strict).setWidth 32 <<< 9) |||
    (i.fields.fmt.code.setWidth 32 <<< 10) |||
    ((BitVec.ofBool i.fields.upper).setWidth 32 <<< 12) |||
    ((BitVec.ofBool i.fields.infmt.bit).setWidth 32 <<< 13) |||
    ((BitVec.ofBool i.fields.lim).setWidth 32 <<< 14)

/-- R85: the opcodes of the twelve commands, and the match test `(d & 0xFFFF800F) == OP`: a word that
decodes passes the test of its command, and a word that passes a command's test decodes to it unless its
width code is unsupported. -/
def Obligations.MatchTestSelectsCommand : Prop :=
  (∀ f : Fields,
    [Command.pack, .unpack, .hexparse, .render, .lit, .decout, .brev, .packop, .unpackop, .swapop,
      .passop, .clr].map (fun c => (c.instr f).opcode) =
    [0x1, 0x2, 0x3, 0x4, 0x5, 0x6, 0x7, 0x8, 0x9, 0xA, 0xB, 0xF]) ∧
  (∀ (d : Word) (i : Instr), decode d = .ok i → d &&& 0xFFFF800F#32 = i.opcode.setWidth 32) ∧
  (∀ (d : Word) (c : Command),
    d &&& 0xFFFF800F#32 = (c.instr (Fields.ofWord d)).opcode.setWidth 32 →
    decode d = .ok (c.instr (Fields.ofWord d)) ∨ decode d = .error .unsupportedWidth)

/-- R87, R88, R89, R229, R230: every command word written while not FAULTED executes one of the twelve
commands or faults: IllegalCommand for a reserved bit or a reserved opcode, UnsupportedWidthError for a
width code 5 to 7 of a width-using command; both record the command word and nothing else. -/
def Obligations.EveryCommandWordExecutesOrFaults : Prop :=
  ∀ (s : State) (d : Word), s.faulted = false →
    let reserved := d.extractLsb' 15 17
    let op := d.extractLsb' 0 4
    let wc := (d.extractLsb' 4 3).toNat
    let usesWidth := op ∈ [(0x1 : BitVec 4), 0x2, 0x8, 0x9, 0xA]
    let usesNoWidth := op ∈ [(0x3 : BitVec 4), 0x4, 0x5, 0x6, 0x7, 0xB, 0xF]
    ((reserved ≠ 0 ∨ op ∈ [(0x0 : BitVec 4), 0xC, 0xD, 0xE]) →
      perform (.regWrite 0 d) s = .next (s.withRecord 7 d 0 0 0 0)) ∧
    (reserved = 0 → usesWidth → 4 < wc →
      perform (.regWrite 0 d) s = .next (s.withRecord 6 d 0 0 0 0)) ∧
    (reserved = 0 → (usesWidth ∧ wc ≤ 4) ∨ usesNoWidth →
      ∃ i, decode d = .ok i ∧ i.opcode = op ∧ i.fields = Fields.ofWord d ∧
        perform (.regWrite 0 d) s = exec i s)

/-- R93: every worked encoding of the rule decodes to the command it stands for, or is rejected as it says. -/
def Obligations.WorkedEncodingsDecode : Prop :=
  decode 0x000000A1 = .ok (.pack { zeroFields with wc := 2, endian := .big }) ∧
  decode 0x00000201 = .ok (.pack { zeroFields with strict := true }) ∧
  decode 0x00000391 = .ok (.pack { zeroFields with
    wc := 1, endian := .big, signed := true, strict := true }) ∧
  decode 0x00000132 = .ok (.unpack { zeroFields with wc := 3, signed := true }) ∧
  decode 0x000001C2 = .ok (.unpack { zeroFields with wc := 4, endian := .big, signed := true }) ∧
  decode 0x00000003 = .ok (.hexparse zeroFields) ∧
  decode 0x00000404 = .ok (.render { zeroFields with fmt := .hex }) ∧
  decode 0x00001C04 = .ok (.render { zeroFields with fmt := .pyEsc, upper := true }) ∧
  decode 0x00000005 = .ok (.lit zeroFields) ∧
  decode 0x00000006 = .ok (.decout zeroFields) ∧
  decode 0x00000007 = .ok (.brev zeroFields) ∧
  decode 0x00000498 = .ok (.packop { zeroFields with wc := 1, endian := .big, fmt := .hex }) ∧
  decode 0x000040A9 = .ok (.unpackop { zeroFields with wc := 2, endian := .big, lim := true }) ∧
  decode 0x0000043A = .ok (.swapop { zeroFields with wc := 3, fmt := .hex }) ∧
  decode 0x0000080B = .ok (.passop { zeroFields with fmt := .cEsc }) ∧
  decode 0x0000340B = .ok (.passop { zeroFields with
    infmt := .rawBytes, fmt := .hex, upper := true }) ∧
  decode 0x0000000F = .ok (.clr zeroFields) ∧
  decode 0x00000000 = .error .illegalCommand ∧
  decode 0x0000000C = .error .illegalCommand ∧
  decode 0x00008001 = .error .illegalCommand ∧
  decode 0x00000051 = .error .unsupportedWidth ∧
  decode 0x00000053 = .ok (.hexparse { zeroFields with wc := 5 })

/-- R86: a command ignores the fields it does not use, and `UPPER` when `FMT` is `Raw`: with any values there
it ends in the same state, but for the command word a fault records (R31). -/
def Obligations.IgnoredFieldsHaveNoEffect : Prop :=
  ∀ (c : Command) (f g : Fields) (s t : State),
    (∀ n ∈ c.usedFields, agreeOn f g n = true ∨ (n = .upper ∧ f.fmt = .raw)) →
    exec (c.instr f) s = .next t →
    exec (c.instr g) s = .next (
      if s.faulted = false ∧ t.faulted = true then
        { t with er := { t.er with ecmd := encode (c.instr g) } }
      else t)

/-- R90, R91, R201: the word of a line the assembler accepts decodes to its command, with every field as a
modifier of the line says, and 0 where no modifier names it; a line is an error when a modifier names a field
the command does not use or a required one is missing, and otherwise is accepted if it names no field twice
(a byte order may stand on SWAPOP and a field named twice is an error: the model's choices, log 16); the line
of a width shorthand is the general line with the width written. -/
def Obligations.AssembledLinesDecode : Prop :=
  (∀ (c : Command) (ms : List Modifier) (d : Word), c.assemble ms = some d →
    ∃ f, decode d = .ok (c.instr f) ∧ encode (c.instr f) = d ∧
      ((∀ w, .width w ∈ ms → Width.ofCode f.wc = some w) ∧ ((∀ w, .width w ∉ ms) → f.wc = 0)) ∧
      ((∀ e, .order e ∈ ms → f.endian = e) ∧ ((∀ e, .order e ∉ ms) → f.endian = .little)) ∧
      ((∀ b, .sign b ∈ ms → f.signed = b) ∧ ((∀ b, .sign b ∉ ms) → f.signed = false)) ∧
      ((∀ b, .policy b ∈ ms → f.strict = b) ∧ ((∀ b, .policy b ∉ ms) → f.strict = false)) ∧
      ((∀ x, .format x ∈ ms → f.fmt = x) ∧ ((∀ x, .format x ∉ ms) → f.fmt = .raw)) ∧
      ((∀ b, .letters b ∈ ms → f.upper = b) ∧ ((∀ b, .letters b ∉ ms) → f.upper = false)) ∧
      ((∀ x, .input x ∈ ms → f.infmt = x) ∧ ((∀ x, .input x ∉ ms) → f.infmt = .hexText)) ∧
      f.lim = decide (.lim ∈ ms)) ∧
  (∀ (c : Command) (ms : List Modifier),
    let mayStand (m : Modifier) : Prop := m.field ∈ c.usedFields ∨ (c = .swapop ∧ m.field = .endian)
    let complete : Prop :=
      (c ∈ [Command.pack, .unpack, .packop, .unpackop, .swapop] → ∃ w, .width w ∈ ms) ∧
      (c ∈ [Command.render, .packop, .swapop, .passop] → ∃ x, .format x ∈ ms) ∧
      (c ∈ [Command.unpackop, .passop] → ∃ x, .input x ∈ ms)
    ((∃ m ∈ ms, ¬ mayStand m) → c.assemble ms = none) ∧
    (¬ complete → c.assemble ms = none) ∧
    ((∀ m ∈ ms, mayStand m) → complete → (ms.map Modifier.field).Nodup →
      ∃ d, c.assemble ms = some d)) ∧
  (∀ (mods : List String) (k : Nat) (w : String),
    [(8, "w8"), (16, "w16"), (32, "w32"), (64, "w64"), (128, "w128")].lookup k = some w →
    assembleLine (("PACKOP" ++ toString k) :: mods) = assembleLine ("PACKOP" :: w :: mods) ∧
    assembleLine (("UNPACKOP" ++ toString k) :: mods) = assembleLine ("UNPACKOP" :: w :: mods)) ∧
  assembleLine ["PACKOP", "w16", "be", "hex"] = some 0x00000498

/-! ### Steps and runs -/

/-- R29, R72: a step whose next transaction writes a command word runs the command that word decodes to, in
the state with that transaction taken from the inbox; `withFetchWord` places just that transaction (the
inbox and `withFetchWord` are the model's own, logs 1 and 3). -/
def Obligations.StepRunsDecodedCommand : Prop :=
  (∀ (s : State) (rest : List HostEvent) (d : Word) (i : Instr),
    s.inbox = .regWrite 0 d :: rest → decode d = .ok i → step s = exec i (s.withInbox rest)) ∧
  (∀ (s : State) (w : Nat) (i : Instr),
    decode (BitVec.ofNat 32 w) = .ok i → step (s.withFetchWord 32 w) = exec i s)

/-- R69, R257 (inbox: model's choice, log 1): a run performs the host's transactions one after another, in
the order in which the host issues them, each on the state the one before it left; with none to come a step
changes nothing. -/
def Obligations.RunPerformsTransactionsInOrder : Prop :=
  (∀ (es rest : List HostEvent) (s : State),
    Sys2Proof.core.run es.length (s.withInbox (es ++ rest)) = runEvents es (s.withInbox rest)) ∧
  (∀ s : State, s.inbox = [] → step s = .next s)

/-- R263, R257: every transaction terminates with a next state, in every state and for every value (with none
to come, log 1, the state stays). -/
def Obligations.EveryStepHasNextState : Prop := ∀ s : State, ∃ t, step s = .next t

/-- R73, R25, R42, R221, R226, R239 (for the mark: log 6; for the 32-bit capacities: log 5): every step
keeps the invariant. -/
def Obligations.StepKeepsInvariant : Prop :=
  ∀ s t : State, s.Inv → step s = .next t → t.Inv

/-- R48, R6: every legal instance starts in the invariant, and the instance of `State.reset` (log 4) is
legal. -/
def Obligations.ResetSatisfiesInvariant : Prop :=
  (∀ cfg : Config, cfg.Legal → (State.resetFor cfg).Inv) ∧ State.reset.Inv

/-- R252 (and the model's own fields, logs 1 and 2): no transaction changes the parameters; a step takes one
event from the inbox; only a `reg_read` returns a value. -/
def Obligations.StepKeepsParameters : Prop :=
  ∀ s t : State, step s = .next t →
    t.cfg = s.cfg ∧ t.inbox = s.inbox.tail ∧
    ((∃ i, s.inbox.head? = some (.regRead i)) → ∃ v, t.replies = s.replies ++ [v]) ∧
    ((¬ ∃ i, s.inbox.head? = some (.regRead i)) → t.replies = s.replies)

/-! ### Faults, the gate, reset -/

/-- R45: while FAULTED a write is ignored, but for a write of CLR to `CMD`, which executes; a read returns
and removes what it would with `ERR` = 0 (`STATUS` returns `ERR` itself); no transaction but CLR and reset
changes the error record. -/
def Obligations.FaultedGate : Prop :=
  ∀ s : State, s.faulted = true →
    (∀ (i : RegIndex) (d : Word), ¬ (i = 0 ∧ isClrWord d) → perform (.regWrite i d) s = .next s) ∧
    (∀ d : Word, isClrWord d →
      perform (.regWrite 0 d) s = .next { s with toArch := Arch.reset s.cfg }) ∧
    (∀ i : RegIndex, i ≠ 0x01 → ∃ t, perform (.regRead i) s = .next t ∧
      perform (.regRead i) { s with er := { s.er with err := 0 } } =
        .next { t with er := { s.er with err := 0 } }) ∧
    perform (.regRead 0x01) s = .next (s.reply (s.er.err.setWidth 32)) ∧
    (∀ (e : HostEvent) (t : State), perform e s = .next t →
      t.er = s.er ∨ t = { s with toArch := Arch.reset s.cfg })

/-- R237: only CLR and reset leave the FAULTED condition, and both leave the reset state. -/
def Obligations.OnlyClrOrResetLeavesFaulted : Prop :=
  ∀ (s t : State) (e : HostEvent), s.faulted = true → perform e s = .next t → t.faulted = false →
    (e = .reset ∨ ∃ d, e = .regWrite 0 d ∧ isClrWord d) ∧ t.toArch = Arch.reset s.cfg

/-- R227, R220: a fault is met only by a write to `CMD`, `TIN_DATA`, `BSEQ_DATA` or `SEP_LEN`, and it
changes nothing but the error record (and the mark of R239). -/
def Obligations.FaultEntryIsPrecise : Prop :=
  ∀ (s t : State) (e : HostEvent), s.faulted = false → perform e s = .next t → t.faulted = true →
    t = { s with er := t.er, faultMark := true } ∧
    ∃ (i : RegIndex) (d : Word), e = .regWrite i d ∧ i ∈ [(0x00 : RegIndex), 0x18, 0x1A, 0x1E]

/-- R31: `ECMD` receives the whole command word of a command that faults, 0 when another register write
faults; otherwise it keeps its value, but CLR and reset make it 0. -/
def Obligations.EcmdRecordsCommandWord : Prop :=
  ∀ (s t : State) (e : HostEvent), perform e s = .next t →
    (∀ d, e = .regWrite 0 d → s.faulted = false → t.faulted = true → t.er.ecmd = d) ∧
    (∀ i d, e = .regWrite i d → i ≠ 0 → s.faulted = false → t.faulted = true → t.er.ecmd = 0) ∧
    ((e = .reset ∨ ∃ d, e = .regWrite 0 d ∧ isClrWord d) → t.er.ecmd = 0) ∧
    (¬ (e = .reset ∨ ∃ d, e = .regWrite 0 d ∧ isClrWord d) →
      ¬ (s.faulted = false ∧ t.faulted = true) → t.er.ecmd = s.er.ecmd)

/-- R239 (the model keeps the mark, log 6): every fault entry sets the mark, nothing else does, and nothing
clears it. -/
def Obligations.FaultMarkRecordsEveryFault : Prop :=
  ∀ s t : State, step s = .next t →
    (s.faultMark = true → t.faultMark = true) ∧
    (s.faulted = false → t.faulted = true → t.faultMark = true) ∧
    (s.faultMark = false → t.faultMark = true → s.faulted = false ∧ t.faulted = true)

/-- R48, R181, R251: CLR, in every state and with every value of its fields, and reset put every piece of
state at its value of the reset table, and so does `State.resetFor` for every instance. -/
def Obligations.ClrAndResetGiveResetValues : Prop :=
  ∀ (s : State) (f : Fields),
    let t : State := { s with
      val := 0, tin := [], bseq := [], tout := [], sepLen := 1
      sepb := 0x20 :: List.replicate (s.cfg.sepCap - 1) 0x00
      repeatCnt := 0, maxCnt := 0
      er := { err := 0, ecmd := 0, ebits := 0, epos := 0, elen := 0, errval := 0 } }
    exec (.clr f) s = .next t ∧ perform .reset s = .next t ∧
      (State.resetFor s.cfg).toArch = t.toArch

/-! ### The register window -/

/-- R36: `VAL0` to `VAL3` read and replace their own 32 bits of `VAL` and no other bit. -/
def Obligations.ScalarWordsReadAndWrite : Prop :=
  ∀ (s : State) (j : Nat) (d : Word), j < 4 →
    perform (.regRead (BitVec.ofNat 7 (0x08 + j))) s =
      .next (s.reply (s.val.extractLsb' (32 * j) 32)) ∧
    (s.faulted = false →
      ∃ v : Scalar, perform (.regWrite (BitVec.ofNat 7 (0x08 + j)) d) s = .next { s with val := v } ∧
        v.extractLsb' (32 * j) 32 = d ∧
        ∀ b, b < 129 → ¬ (32 * j ≤ b ∧ b < 32 * j + 32) → v.getLsbD b = s.val.getLsbD b)

/-- R37: `VAL4` reads as bit 128 of `VAL` replicated; a write replaces that bit with bit 0 of the data; the
five words of an integer of the scalar domain load it, and any five words load the integer they spell. -/
def Obligations.ScalarTopReadsAndWrites : Prop :=
  (∀ s : State, perform (.regRead 0x0C) s =
    .next (s.reply (if s.val.getLsbD 128 then 0xFFFFFFFF else 0x00000000))) ∧
  (∀ (s : State) (d : Word), s.faulted = false →
    ∃ v : Scalar, perform (.regWrite 0x0C d) s = .next { s with val := v } ∧
      v.getLsbD 128 = d.getLsbD 0 ∧ ∀ b, b < 128 → v.getLsbD b = s.val.getLsbD b) ∧
  (∀ (s : State) (v : Int), s.faulted = false → smin ≤ v → v ≤ smax →
    ∃ p : Scalar, p.toInt = v ∧ runEvents (valStatement v) s = .next { s with val := p }) ∧
  (∀ (s : State) (w0 w1 w2 w3 w4 : Word), s.faulted = false →
    runEvents [.regWrite 0x08 w0, .regWrite 0x09 w1, .regWrite 0x0A w2, .regWrite 0x0B w3,
      .regWrite 0x0C w4] s =
      .next { s with val := BitVec.ofNat 129 ((w4.toNat % 2) * 2 ^ 128 + w3.toNat * 2 ^ 96 +
        w2.toNat * 2 ^ 64 + w1.toNat * 2 ^ 32 + w0.toNat) })

/-- R30, R32, R33, R38: the read-only registers of the error record and what they show; writes to them are
ignored. -/
def Obligations.ErrorRecordIsReadOnly : Prop :=
  ∀ s : State,
    (perform (.regRead 0x01) s = .next (s.reply (s.er.err.setWidth 32))) ∧
    (perform (.regRead 0x02) s = .next (s.reply s.er.ecmd)) ∧
    (perform (.regRead 0x03) s = .next (s.reply s.er.ebits)) ∧
    (perform (.regRead 0x04) s = .next (s.reply s.er.epos)) ∧
    (perform (.regRead 0x05) s = .next (s.reply s.er.elen)) ∧
    (∀ j, j < 4 → perform (.regRead (BitVec.ofNat 7 (0x10 + j))) s =
      .next (s.reply (s.er.errval.extractLsb' (32 * j) 32))) ∧
    (perform (.regRead 0x14) s =
      .next (s.reply (if s.er.errval.getLsbD 128 then 0xFFFFFFFF else 0x00000000))) ∧
    (∀ (i : RegIndex) (d : Word),
      (1 ≤ i.toNat ∧ i.toNat ≤ 5) ∨ (0x10 ≤ i.toNat ∧ i.toNat ≤ 0x14) →
      perform (.regWrite i d) s = .next s)

/-- R39: `TIN_DATA` appends the low byte of the data, or raises CapacityError when `TIN` is full; its read
returns 0 and has no effect; `TIN_LEN` reads the length and ignores writes (R27, R28). -/
def Obligations.TinRegisters : Prop :=
  ∀ (s : State) (d : Word),
    perform (.regRead 0x18) s = .next (s.reply 0) ∧
    perform (.regRead 0x19) s = .next (s.reply (BitVec.ofNat 32 s.tin.length)) ∧
    perform (.regWrite 0x19 d) s = .next s ∧
    (s.faulted = false → s.tin.length < s.cfg.tinCap →
      perform (.regWrite 0x18 d) s = .next { s with tin := s.tin ++ [d.extractLsb' 0 8] }) ∧
    (s.faulted = false → s.cfg.tinCap ≤ s.tin.length →
      perform (.regWrite 0x18 d) s = .next (s.withRecord 9 0 0 0x18 0 0))

/-- R40: `BSEQ_DATA` appends on a write, or raises CapacityError when `BSEQ` is full; a read pops the head,
zero-extended; an empty pop returns 0 and changes nothing; `BSEQ_LEN` reads the length and ignores
writes (R27, R28). -/
def Obligations.BseqRegisters : Prop :=
  ∀ (s : State) (d : Word),
    perform (.regRead 0x1B) s = .next (s.reply (BitVec.ofNat 32 s.bseq.length)) ∧
    perform (.regWrite 0x1B d) s = .next s ∧
    (∀ b q, s.bseq = b :: q →
      perform (.regRead 0x1A) s = .next (State.reply { s with bseq := q } (b.setWidth 32))) ∧
    (s.bseq = [] → perform (.regRead 0x1A) s = .next (s.reply 0)) ∧
    (s.faulted = false → s.bseq.length < s.cfg.bseqCap →
      perform (.regWrite 0x1A d) s = .next { s with bseq := s.bseq ++ [d.extractLsb' 0 8] }) ∧
    (s.faulted = false → s.cfg.bseqCap ≤ s.bseq.length →
      perform (.regWrite 0x1A d) s = .next (s.withRecord 9 0 0 0x1A 0 0))

/-- R41: a read of `TOUT_DATA` pops the head of `TOUT`, an empty pop returns 0 and changes nothing, a write
is ignored; `TOUT_LEN` reads the length and ignores writes (R27, R28). -/
def Obligations.ToutRegisters : Prop :=
  ∀ (s : State) (d : Word),
    perform (.regRead 0x1D) s = .next (s.reply (BitVec.ofNat 32 s.tout.length)) ∧
    perform (.regWrite 0x1D d) s = .next s ∧
    (∀ b q, s.tout = b :: q →
      perform (.regRead 0x1C) s = .next (State.reply { s with tout := q } (b.setWidth 32))) ∧
    (s.tout = [] → perform (.regRead 0x1C) s = .next (s.reply 0)) ∧
    perform (.regWrite 0x1C d) s = .next s

/-- R34, R35, R42, R43: the option registers store what is written and read it back; `SEP_LEN` above
`SEP_CAP` raises CapacityError; `SEPB[k]` keeps the low byte. -/
def Obligations.OptionRegisters : Prop :=
  ∀ (s : State) (d : Word), s.sepb.length = s.cfg.sepCap → s.cfg.sepCap ≤ 64 →
    perform (.regRead 0x06) s = .next (s.reply s.repeatCnt) ∧
    perform (.regRead 0x07) s = .next (s.reply s.maxCnt) ∧
    perform (.regRead 0x1E) s = .next (s.reply s.sepLen) ∧
    (∀ (k : Nat) (hk : k < s.sepb.length), perform (.regRead (BitVec.ofNat 7 (0x40 + k))) s =
      .next (s.reply ((s.sepb[k]).setWidth 32))) ∧
    (s.faulted = false →
      perform (.regWrite 0x06 d) s = .next { s with repeatCnt := d } ∧
      perform (.regWrite 0x07 d) s = .next { s with maxCnt := d } ∧
      (d.toNat ≤ s.cfg.sepCap → perform (.regWrite 0x1E d) s = .next { s with sepLen := d }) ∧
      (s.cfg.sepCap < d.toNat →
        perform (.regWrite 0x1E d) s = .next (s.withRecord 9 0 0 0x1E 0 0)) ∧
      (∀ k, k < s.cfg.sepCap → ∃ q : List Byte,
        perform (.regWrite (BitVec.ofNat 7 (0x40 + k)) d) s = .next { s with sepb := q } ∧
        q.length = s.sepb.length ∧ q[k]? = some (d.extractLsb' 0 8) ∧
        ∀ m, m ≠ k → q[m]? = s.sepb[m]?))

/-- R44: a reserved index reads 0 and ignores writes. -/
def Obligations.ReservedIndicesDoNothing : Prop :=
  ∀ (s : State) (i : RegIndex) (d : Word),
    ((0x0D ≤ i.toNat ∧ i.toNat ≤ 0x0F) ∨ (0x15 ≤ i.toNat ∧ i.toNat ≤ 0x17) ∨
      (0x1F ≤ i.toNat ∧ i.toNat ≤ 0x3F) ∨ (0x40 + s.cfg.sepCap ≤ i.toNat)) →
    perform (.regRead i) s = .next (s.reply 0) ∧ perform (.regWrite i d) s = .next s

/-- R68, R220: no `reg_read` faults; a read of `BSEQ_DATA` or `TOUT_DATA` removes at most the head of that
queue; every other read has no side effect; a read of `CMD` returns 0 (R29). -/
def Obligations.ReadsOnlyPopDataQueues : Prop :=
  ∀ (s : State) (i : RegIndex), ∃ v : Word, (i = 0x00 → v = 0) ∧
    (i = 0x1A → perform (.regRead i) s = .next (State.reply { s with bseq := s.bseq.tail } v)) ∧
    (i = 0x1C → perform (.regRead i) s = .next (State.reply { s with tout := s.tout.tail } v)) ∧
    (i ≠ 0x1A → i ≠ 0x1C → perform (.regRead i) s = .next (s.reply v))

/-! ### The Scalar Codec -/

/-- R115: `pack` gives exactly `bits / 8` bytes whenever it does not raise. -/
def Obligations.PackLengthIsWidthBytes : Prop :=
  ∀ (x : Int) (w : Width) (e : Endian) (sg st : Bool) (b : List Byte),
    pack x w e sg st = .ok b → b.length = w.bits / 8

/-- R116, R117, R118: the round trips: what `unpack` gives back of a `pack` that did not raise, for every
integer; and a strict signed `pack` of a value in range does not raise and gives the value back. -/
def Obligations.UnpackOfPackRoundTrips : Prop :=
  (∀ (x : Int) (w : Width) (e : Endian) (sg st : Bool) (b : List Byte),
    pack x w e sg st = .ok b →
    unpack b w e false = x % ((2 ^ w.bits : Nat) : Int) ∧
    unpack b w e true = (x + ((2 ^ (w.bits - 1) : Nat) : Int)) % ((2 ^ w.bits : Nat) : Int)
      - ((2 ^ (w.bits - 1) : Nat) : Int)) ∧
  (∀ (x : Int) (w : Width) (e : Endian), ∃ b, pack x w e false false = .ok b ∧
    unpack b w e false = x % ((2 ^ w.bits : Nat) : Int)) ∧
  (∀ (x : Int) (w : Width) (e : Endian), inRange x w true →
    ∃ b, pack x w e true true = .ok b ∧ unpack b w e true = x)

/-- R119: big is the reverse of little, in both directions, and endianness never decides a fault. -/
def Obligations.EndiannessReversesBytes : Prop :=
  (∀ (x : Int) (w : Width) (sg st : Bool),
    pack x w .big sg st = (pack x w .little sg st).map List.reverse) ∧
  (∀ (b : List Byte) (w : Width) (sg : Bool), b.length = w.bytes →
    unpack b w .big sg = unpack b.reverse w .little sg)

/-- R120: strict mode only rejects, it never changes the bytes, and truncating mode never inspects
signedness. -/
def Obligations.StrictModeOnlyRejects : Prop :=
  (∀ (x : Int) (w : Width) (e : Endian) (sg sg' : Bool) (b : List Byte),
    pack x w e sg true = .ok b → pack x w e sg' false = .ok b) ∧
  (∀ (x : Int) (w : Width) (e : Endian), pack x w e true false = pack x w e false false)

/-- R121: packing an unpacked value gives the bytes back, strict or not. -/
def Obligations.PackOfUnpackIsIdentity : Prop :=
  ∀ (b : List Byte) (w : Width) (e : Endian) (sg st : Bool), b.length = w.bytes →
    pack (unpack b w e sg) w e sg st = .ok b

/-- R110, R222, R223: PACK, for every width, byte order, signedness and policy: SignError, RangeError and
CapacityError with their records, and otherwise the bytes of `VAL mod 2^bits` appended to `BSEQ`. -/
def Obligations.PackCommand : Prop :=
  ∀ (f : Fields) (s : State) (w : Width), Width.ofCode f.wc = some w → s.faulted = false →
    (f.strict = true → f.signed = false → s.val.toInt < 0 →
      exec (.pack f) s =
        .next (s.withRecord 2 (encode (.pack f)) (BitVec.ofNat 32 w.bits) 0 0 s.val)) ∧
    (f.strict = true → ¬ inRange s.val.toInt w f.signed → (f.signed = true ∨ 0 ≤ s.val.toInt) →
      exec (.pack f) s =
        .next (s.withRecord 1 (encode (.pack f)) (BitVec.ofNat 32 w.bits) 0 0 s.val)) ∧
    ((f.strict = true → inRange s.val.toInt w f.signed) → s.cfg.bseqCap < s.bseq.length + w.bytes →
      exec (.pack f) s = .next (s.withRecord 9 (encode (.pack f)) 0
        (sat32 w.bytes) (sat32 (s.cfg.bseqCap - s.bseq.length)) 0)) ∧
    ((f.strict = true → inRange s.val.toInt w f.signed) → s.bseq.length + w.bytes ≤ s.cfg.bseqCap →
      ∃ b : List Byte, exec (.pack f) s = .next { s with bseq := s.bseq ++ b } ∧
        b.length = w.bytes ∧
        (littleValue (if f.endian = .little then b else b.reverse) : Int) =
          s.val.toInt % ((2 ^ w.bits : Nat) : Int))

/-- R113, R232: UNPACK: LengthError when `BSEQ` is too short, and otherwise exactly `width_bytes` bytes
taken from its head, their value in `VAL`, where it always fits (R109). -/
def Obligations.UnpackCommand : Prop :=
  ∀ (f : Fields) (s : State) (w : Width), Width.ofCode f.wc = some w → s.faulted = false →
    (s.bseq.length < w.bytes →
      exec (.unpack f) s = .next (s.withRecord 8 (encode (.unpack f)) 0
        (sat32 s.bseq.length) (sat32 w.bytes) 0)) ∧
    (w.bytes ≤ s.bseq.length →
      let c := s.bseq.take w.bytes
      let m := littleValue (if f.endian = .little then c else c.reverse)
      let v : Int := if f.signed = true ∧ 2 ^ (w.bits - 1) ≤ m then
        (m : Int) - ((2 ^ w.bits : Nat) : Int) else (m : Int)
      ∃ p : Scalar, p.toInt = v ∧
        exec (.unpack f) s = .next { s with bseq := s.bseq.drop w.bytes, val := p })

/-! ### The Hex Token Parser -/

/-- R131, R132, and R12 (that a byte of `WS_SET` of 0x80 or more separates nothing is the model's reading of
R12 against R131, log 17): a separator is a byte of `WS_SET` below 0x80 or one of `:`, `,`, `-`, `;`; the raw tokens are exactly the
maximal non-empty runs of other bytes, in the order of their start indices; a text of separators parses to
nothing. -/
def Obligations.RawTokensAreMaximalRuns : Prop :=
  ∀ (ws t : List Byte),
    (∀ c : Byte, isSep ws c = true ↔
      (c ∈ ws ∧ c.toNat < 0x80) ∨ c = 0x3A ∨ c = 0x2C ∨ c = 0x2D ∨ c = 0x3B) ∧
    ((∀ c ∈ t, isSep ws c = true) → parse ws t = .ok []) ∧
    (∀ (i : Nat) (tok : List Byte), (i, tok) ∈ rawTokens ws 0 [] t ↔
      tok ≠ [] ∧ (∀ c ∈ tok, isSep ws c = false) ∧
      ∃ before after : List Byte, t = before ++ tok ++ after ∧ before.length = i ∧
        (∀ c ∈ before.getLast?, isSep ws c = true) ∧ (∀ c ∈ after.head?, isSep ws c = true)) ∧
    (rawTokens ws 0 [] t).Pairwise (fun a b => a.1 < b.1)

/-- R133, R136: when every token, less its optional prefix, is pairs of hexadecimal digits, `parse` gives the
bytes of the pairs, high nibble first, tokens and pairs from left to right. -/
def Obligations.ParseJoinsTokenBytes : Prop :=
  ∀ (ws t : List Byte) (bs : List (List Byte)),
    List.Forall₂ (fun p b =>
      let tok := p.2
      let stripped := if tok[0]? = some 0x30 ∧ (tok[1]? = some 0x78 ∨ tok[1]? = some 0x58) then
        tok.drop 2 else tok
      stripped.length = 2 * b.length ∧
      ∀ k, k < b.length → ∃ (c0 c1 : Byte) (hi lo : Nat),
        stripped[2 * k]? = some c0 ∧ hexval c0 = some hi ∧
        stripped[2 * k + 1]? = some c1 ∧ hexval c1 = some lo ∧
        b[k]? = some (BitVec.ofNat 8 (16 * hi + lo))) (rawTokens ws 0 [] t) bs →
    parse ws t = .ok bs.flatten

/-- R140 (for a `WS_SET` that holds the newline, log 19, and only what R6 and R12 allow, log 17, as the
default does): `parse` inverts the Hex rendering for every separator made of separator bytes. -/
def Obligations.ParseInvertsHexRendering : Prop :=
  ∀ (ws b sep : List Byte) (upper : Bool),
    (0x0A : Byte) ∈ ws → (∀ c ∈ ws, notWhitespace c = false) → (∀ c ∈ sep, isSep ws c = true) →
    parse ws (render b .hex sep upper) = .ok b

/-- R137, R231: HEXPARSE of a text that parses: CapacityError, or the bytes appended to `BSEQ` and `TIN`
emptied. -/
def Obligations.HexparseCommand : Prop :=
  ∀ (f : Fields) (s : State) (b : List Byte), s.faulted = false → parse s.cfg.wsSet s.tin = .ok b →
    (s.cfg.bseqCap < s.bseq.length + b.length →
      exec (.hexparse f) s = .next (s.withRecord 9 (encode (.hexparse f)) 0
        (sat32 b.length) (sat32 (s.cfg.bseqCap - s.bseq.length)) 0)) ∧
    (s.bseq.length + b.length ≤ s.cfg.bseqCap →
      exec (.hexparse f) s = .next { s with bseq := s.bseq ++ b, tin := [] })

/-- R224, R225, R136: HEXPARSE, and UNPACKOP and PASSOP with `INFMT` = 0, fault at the first token that
fails, and record where its raw token starts and how long it is: OddNibbleError for an odd number of bytes
after the prefix, InvalidHexError for an even number with a byte that is no hexadecimal digit. -/
def Obligations.ParseFaultNamesFirstBadToken : Prop :=
  ∀ (i : Instr) (s : State) (good rest : List (Nat × List Byte)) (pos : Nat) (tok : List Byte),
    s.faulted = false → i.wellFormed = true →
    ((∃ f, i = .hexparse f) ∨ (∃ f, f.infmt = .hexText ∧ (i = .unpackop f ∨ i = .passop f))) →
    rawTokens s.cfg.wsSet 0 [] s.tin = good ++ (pos, tok) :: rest →
    (∀ q ∈ good, ∃ b, parseToken q.1 q.2 = .ok b) →
    let stripped := if tok[0]? = some 0x30 ∧ (tok[1]? = some 0x78 ∨ tok[1]? = some 0x58) then tok.drop 2
      else tok
    (stripped.length % 2 = 1 →
      exec i s = .next (s.withRecord 3 (encode i) 0 (sat32 pos) (sat32 tok.length) 0)) ∧
    (stripped.length % 2 = 0 → (∃ c ∈ stripped, ishex c = false) →
      exec i s = .next (s.withRecord 4 (encode i) 0 (sat32 pos) (sat32 tok.length) 0))

/-! ### The Byte Formatter -/

/-- R151 to R155: the four formats, byte by byte: two digits a byte, high nibble first, capitals when `UPPER`
says so; `sep` between two hex pairs and nowhere else; backslash and `x` before each pair of an escape; what stands
around them. -/
def Obligations.RenderFormats : Prop :=
  ∀ (sep : List Byte) (upper : Bool),
    (∀ x : Byte, ∃ hi lo : Byte, hexPair upper x = [hi, lo] ∧
      hexval hi = some (x.toNat / 16) ∧ hexval lo = some (x.toNat % 16) ∧
      ∀ c ∈ [hi, lo], isdec c = true ∨ (upper = true ∧ c.toNat ≤ 0x46) ∨
        (upper = false ∧ 0x61 ≤ c.toNat)) ∧
    (∀ b : List Byte, render b .raw sep upper = b) ∧
    render [] .hex sep upper = [0x0A] ∧
    (∀ x : Byte, render [x] .hex sep upper = hexPair upper x ++ [0x0A]) ∧
    (∀ (x y : Byte) (b : List Byte), render (x :: y :: b) .hex sep upper =
      hexPair upper x ++ sep ++ render (y :: b) .hex sep upper) ∧
    render [] .cEsc sep upper = [0x0A] ∧
    (∀ (x : Byte) (b : List Byte), render (x :: b) .cEsc sep upper =
      [0x5C, 0x78] ++ hexPair upper x ++ render b .cEsc sep upper) ∧
    (∀ b : List Byte, render b .pyEsc sep upper =
      [0x62, 0x22] ++ (b.flatMap fun x => [0x5C, 0x78] ++ hexPair upper x) ++ [0x22, 0x0A])

/-- R156: the lengths of the four renderings. -/
def Obligations.RenderLengths : Prop :=
  ∀ (b sep : List Byte) (upper : Bool),
    (render b .raw sep upper).length = b.length ∧
    (render b .hex sep upper).length =
      (if b.length = 0 then 1 else 2 * b.length + sep.length * (b.length - 1) + 1) ∧
    (render b .cEsc sep upper).length = 4 * b.length + 1 ∧
    (render b .pyEsc sep upper).length = 4 * b.length + 4

/-- R157, R231: RENDER: CapacityError when the whole rendering does not fit, and otherwise the rendering
appended to `TOUT` and `BSEQ` emptied. -/
def Obligations.RenderCommand : Prop :=
  ∀ (f : Fields) (s : State), s.faulted = false →
    let o := render s.bseq f.fmt (s.sepb.take s.sepLen.toNat) f.upper
    (s.cfg.toutCap < s.tout.length + o.length →
      exec (.render f) s = .next (s.withRecord 9 (encode (.render f)) 0
        (sat32 o.length) (sat32 (s.cfg.toutCap - s.tout.length)) 0)) ∧
    (s.tout.length + o.length ≤ s.cfg.toutCap →
      exec (.render f) s = .next { s with tout := s.tout ++ o, bseq := [] })

/-! ### Literals, decimal text, BREV -/

/-- R170, R172, R173: the literals and their values: a text gives the value `v` exactly when it is a
hexadecimal literal or a decimal literal that spells `v` and `v` is in the scalar domain; every other text
raises ParseLiteralError. -/
def Obligations.LiteralGrammar : Prop :=
  ∀ (s : List Byte) (pos : Nat),
    (∀ v : Int, literal s pos = .ok v ↔
      (smin ≤ v ∧ v ≤ smax ∧
        ((∃ x ds, s = 0x30 :: x :: ds ∧ (x = 0x78 ∨ x = 0x58) ∧ ds ≠ [] ∧
            (∀ c ∈ ds, ishex c = true) ∧ v = Nat.ofDigits 16 (ds.reverse.map nibble)) ∨
         (∃ sign ds, s = sign ++ ds ∧ (sign = [] ∨ sign = [0x2B] ∨ sign = [0x2D]) ∧ ds ≠ [] ∧
            (∀ c ∈ ds, isdec c = true) ∧
            v = (if sign = [0x2D] then -1 else 1) *
              (Nat.ofDigits 10 (ds.reverse.map fun c => c.toNat - 0x30) : Int))))) ∧
    (∀ k, literal s pos = .error k → k = .parseLiteralError pos s.length)

/-- R176: decimal text: the base-ten digits, most significant first, no leading zero, `0` for 0, `-` before
a negative number; at most 40 bytes in the scalar domain; and the literal it spells is the number. -/
def Obligations.DecimalText : Prop :=
  (∀ n : Nat, dec (n : Int) =
    if n = 0 then [0x30] else (Nat.digits 10 n).reverse.map fun d => BitVec.ofNat 8 (0x30 + d)) ∧
  (∀ n : Nat, 0 < n → dec (-(n : Int)) = 0x2D :: dec (n : Int)) ∧
  (∀ (v : Int) (pos : Nat), smin ≤ v → v ≤ smax →
    (dec v).length ≤ 40 ∧ literal (dec v) pos = .ok v)

/-- R175: framing: each field is free of 0x00; the fields, each followed by 0x00, spell the text (with a
final 0x00 supplied where the text ends without one); each carries its start index. -/
def Obligations.FrameSplitsAtNul : Prop :=
  ∀ t : List Byte,
    (∀ p ∈ frame t, (0x00 : Byte) ∉ p.2) ∧
    ((frame t).flatMap (fun p => p.2 ++ [0x00]) =
      if t = [] ∨ t.getLast? = some 0x00 then t else t ++ [0x00]) ∧
    (∀ (before after : List (Nat × List Byte)) (p : Nat × List Byte),
      frame t = before ++ p :: after →
      p.1 = (before.flatMap fun q => q.2 ++ [0x00]).length)

/-- R171, R228: LIT: the literal in `TIN`, less one optional final 0x00, goes to `VAL`, where it fits, and
`TIN` is emptied; a text that is no literal is a ParseLiteralError over the whole of it. -/
def Obligations.LitCommand : Prop :=
  ∀ (f : Fields) (s : State), s.faulted = false →
    let text := if s.tin.getLast? = some 0x00 then s.tin.dropLast else s.tin
    (∀ v, literal text 0 = .ok v → ∃ p : Scalar, p.toInt = v ∧
      exec (.lit f) s = .next { s with val := p, tin := [] }) ∧
    ((∀ v, literal text 0 ≠ .ok v) →
      exec (.lit f) s = .next (s.withRecord 5 (encode (.lit f)) 0 0 (sat32 text.length) 0))

/-- R177, R231: DECOUT: CapacityError, or the decimal text of `VAL` and a newline appended to `TOUT`. -/
def Obligations.DecoutCommand : Prop :=
  ∀ (f : Fields) (s : State), s.faulted = false →
    let o := dec s.val.toInt ++ [0x0A]
    (s.cfg.toutCap < s.tout.length + o.length →
      exec (.decout f) s = .next (s.withRecord 9 (encode (.decout f)) 0
        (sat32 o.length) (sat32 (s.cfg.toutCap - s.tout.length)) 0)) ∧
    (s.tout.length + o.length ≤ s.cfg.toutCap →
      exec (.decout f) s = .next { s with tout := s.tout ++ o })

/-- R179, R180: BREV moves the byte at index `i` to index `len - 1 - i`, faults in no state, and done twice
restores `BSEQ`. -/
def Obligations.BrevCommand : Prop :=
  ∀ (f g : Fields) (s : State), s.faulted = false →
    ∃ q : List Byte, exec (.brev f) s = .next { s with bseq := q } ∧
      q.length = s.bseq.length ∧
      (∀ i, i < s.bseq.length → q[i]? = s.bseq[s.bseq.length - 1 - i]?) ∧
      exec (.brev g) { s with bseq := q } = .next s

/-! ### The Operation Layer -/

/-- R191, R192, R231: PACKOP of literals that all parse and pack: the concatenation of their bytes, used
`REPEAT` times from 2 on and once otherwise, rendered and appended to `TOUT`, `TIN` emptied; or
CapacityError when the rendering does not fit. -/
def Obligations.PackopCommand : Prop :=
  ∀ (f : Fields) (s : State) (w : Width) (bs : List (List Byte)),
    Width.ofCode f.wc = some w → s.faulted = false →
    List.Forall₂ (fun p b => ∃ v, literal p.2 p.1 = .ok v ∧
      pack v w f.endian f.signed f.strict = .ok b) (frame s.tin) bs →
    let n := if s.repeatCnt.toNat ≤ 1 then 1 else s.repeatCnt.toNat
    let o := render (List.replicate n bs.flatten).flatten f.fmt (s.sepb.take s.sepLen.toNat) f.upper
    (s.cfg.toutCap < s.tout.length + o.length →
      exec (.packop f) s = .next (s.withRecord 9 (encode (.packop f)) 0
        (sat32 o.length) (sat32 (s.cfg.toutCap - s.tout.length)) 0)) ∧
    (s.tout.length + o.length ≤ s.cfg.toutCap →
      exec (.packop f) s = .next { s with tout := s.tout ++ o, tin := [] })

/-- R191, R234: PACKOP reports the first literal, from the left, that does not parse or does not pack:
ParseLiteralError with its place in `TIN`, SignError or RangeError with its value. -/
def Obligations.PackopFirstFailingLiteral : Prop :=
  ∀ (f : Fields) (s : State) (w : Width) (good rest : List (Nat × List Byte)) (pos : Nat)
    (text : List Byte),
    Width.ofCode f.wc = some w → s.faulted = false → frame s.tin = good ++ (pos, text) :: rest →
    (∀ p ∈ good, ∃ v b, literal p.2 p.1 = .ok v ∧
      pack v w f.endian f.signed f.strict = .ok b) →
    ((∀ v, literal text pos ≠ .ok v) →
      exec (.packop f) s =
        .next (s.withRecord 5 (encode (.packop f)) 0 (sat32 pos) (sat32 text.length) 0)) ∧
    (∀ v, literal text pos = .ok v → f.strict = true → f.signed = false → v < 0 →
      exec (.packop f) s = .next (s.withRecord 2 (encode (.packop f)) (BitVec.ofNat 32 w.bits) 0 0
        (BitVec.ofInt 129 v))) ∧
    (∀ v, literal text pos = .ok v → f.strict = true → ¬ inRange v w f.signed →
      (f.signed = true ∨ 0 ≤ v) →
      exec (.packop f) s = .next (s.withRecord 1 (encode (.packop f)) (BitVec.ofNat 32 w.bits) 0 0
        (BitVec.ofInt 129 v)))

/-- R194, R195, R231: UNPACKOP of an input that gives the bytes `b`: the first complete chunks, at most
`MAXCNT` of them when `LIM` is 1, each decoded and printed on its own line, and `TIN` emptied; or
CapacityError when the lines do not fit. -/
def Obligations.UnpackopCommand : Prop :=
  ∀ (f : Fields) (s : State) (w : Width) (b : List Byte),
    Width.ofCode f.wc = some w → s.faulted = false →
    (f.infmt = .hexText → parse s.cfg.wsSet s.tin = .ok b) → (f.infmt = .rawBytes → b = s.tin) →
    let complete := b.length / w.bytes
    let k := if f.lim = true then min s.maxCnt.toNat complete else complete
    let o := (List.range k).flatMap fun j =>
      dec (unpack ((b.drop (j * w.bytes)).take w.bytes) w f.endian f.signed) ++ [0x0A]
    (s.cfg.toutCap < s.tout.length + o.length →
      exec (.unpackop f) s = .next (s.withRecord 9 (encode (.unpackop f)) 0
        (sat32 o.length) (sat32 (s.cfg.toutCap - s.tout.length)) 0)) ∧
    (s.tout.length + o.length ≤ s.cfg.toutCap →
      exec (.unpackop f) s = .next { s with tout := s.tout ++ o, tin := [] })

/-- R197, R198 (a), R231: SWAPOP prints the little-endian bytes of its one literal, whatever `ENDIAN` says:
the big-endian bytes, reversed; it raises ParseLiteralError, then SignError or RangeError, then
CapacityError. -/
def Obligations.SwapopCommand : Prop :=
  ∀ (f : Fields) (s : State) (w : Width), Width.ofCode f.wc = some w → s.faulted = false →
    let text := if s.tin.getLast? = some 0x00 then s.tin.dropLast else s.tin
    ((∀ v, literal text 0 ≠ .ok v) →
      exec (.swapop f) s = .next (s.withRecord 5 (encode (.swapop f)) 0 0 (sat32 text.length) 0)) ∧
    (∀ v, literal text 0 = .ok v →
      (f.strict = true → f.signed = false → v < 0 →
        exec (.swapop f) s = .next (s.withRecord 2 (encode (.swapop f)) (BitVec.ofNat 32 w.bits) 0 0
          (BitVec.ofInt 129 v))) ∧
      (f.strict = true → ¬ inRange v w f.signed → (f.signed = true ∨ 0 ≤ v) →
        exec (.swapop f) s = .next (s.withRecord 1 (encode (.swapop f)) (BitVec.ofNat 32 w.bits) 0 0
          (BitVec.ofInt 129 v))) ∧
      ((f.strict = true → inRange v w f.signed) →
        ∃ p : List Byte, p.length = w.bytes ∧
          (littleValue p : Int) = v % ((2 ^ w.bits : Nat) : Int) ∧
          let o := render p f.fmt (s.sepb.take s.sepLen.toNat) f.upper
          (s.cfg.toutCap < s.tout.length + o.length →
            exec (.swapop f) s = .next (s.withRecord 9 (encode (.swapop f)) 0
              (sat32 o.length) (sat32 (s.cfg.toutCap - s.tout.length)) 0)) ∧
          (s.tout.length + o.length ≤ s.cfg.toutCap →
            exec (.swapop f) s = .next { s with tout := s.tout ++ o, tin := [] })))

/-- R199, R231: PASSOP of an input that gives the bytes `b`: their rendering appended to `TOUT` and `TIN`
emptied, or CapacityError when it does not fit. -/
def Obligations.PassopCommand : Prop :=
  ∀ (f : Fields) (s : State) (b : List Byte), s.faulted = false →
    (f.infmt = .hexText → parse s.cfg.wsSet s.tin = .ok b) → (f.infmt = .rawBytes → b = s.tin) →
    let o := render b f.fmt (s.sepb.take s.sepLen.toNat) f.upper
    (s.cfg.toutCap < s.tout.length + o.length →
      exec (.passop f) s = .next (s.withRecord 9 (encode (.passop f)) 0
        (sat32 o.length) (sat32 (s.cfg.toutCap - s.tout.length)) 0)) ∧
    (s.tout.length + o.length ≤ s.cfg.toutCap →
      exec (.passop f) s = .next { s with tout := s.tout ++ o, tin := [] })

/-! ### Frames, and the operations against the primitives -/

/-- R49 (what a command writes), R227: after a fault only the error record and the mark may differ; after a
success only what the command's row of the table names. -/
def Obligations.CommandsWriteOnlyTheirRow : Prop :=
  ∀ (i : Instr) (s t : State), exec i s = .next t →
    if t.faulted = true then t = { s with er := t.er, faultMark := t.faultMark }
    else match i with
      | .pack _ => t = { s with bseq := t.bseq }
      | .unpack _ => t = { s with bseq := t.bseq, val := t.val }
      | .hexparse _ => t = { s with bseq := t.bseq, tin := [] }
      | .render _ => t = { s with tout := t.tout, bseq := [] }
      | .lit _ => t = { s with val := t.val, tin := [] }
      | .decout _ => t = { s with tout := t.tout }
      | .brev _ => t = { s with bseq := t.bseq }
      | .packop _ => t = { s with tout := t.tout, tin := [] }
      | .unpackop _ => t = { s with tout := t.tout, tin := [] }
      | .swapop _ => t = { s with tout := t.tout, tin := [] }
      | .passop _ => t = { s with tout := t.tout, tin := [] }
      | .clr _ => t = { s with toArch := Arch.reset s.cfg }

/-- R49 (what a command reads), R190 (b), R255: an operation command's outcome depends on `TIN`, `TOUT` and
the options it reads, and on nothing else: not on `VAL`, `BSEQ` or the old error record; on `REPEAT` only
PACKOP's, on `MAXCNT` only UNPACKOP's with `LIM`, on `SEP` only when `FMT` selects Hex. -/
def Obligations.OperationsReadOnlyTheirInputs : Prop :=
  ∀ (i : Instr) (f : Fields) (s s' t t' : State),
    (i = .packop f ∨ i = .unpackop f ∨ i = .swapop f ∨ i = .passop f) →
    s.faulted = false → s'.faulted = false →
    s.cfg = s'.cfg → s.tin = s'.tin → s.tout = s'.tout →
    (i = .packop f → s.repeatCnt = s'.repeatCnt) →
    (i = .unpackop f → f.lim = true → s.maxCnt = s'.maxCnt) →
    (f.fmt = .hex → i ≠ .unpackop f → s.sepb = s'.sepb ∧ s.sepLen = s'.sepLen) →
    exec i s = .next t → exec i s' = .next t' →
    t.faulted = t'.faulted ∧ t.tin = t'.tin ∧ t.tout = t'.tout ∧ (t.faulted = true → t.er = t'.er)

/-- R193 (g): with `REPEAT` at most 1 and `BSEQ` empty, loading the literals and PACKOP gives the same
`TOUT` as LIT and PACK for each literal in turn and then RENDER, all with the same fields, provided no
transaction faults. -/
def Obligations.PackopEqualsPrimitives : Prop :=
  ∀ (f : Fields) (texts : List (List Byte)) (s t t' : State),
    s.faulted = false → s.tin = [] → s.bseq = [] → s.repeatCnt.toNat ≤ 1 →
    (∀ x ∈ texts, (0x00 : Byte) ∉ x) → (Instr.packop f).wellFormed = true →
    runEvents (tinStatement (texts.flatMap fun x => x ++ [0x00]) ++
      [commandEvent (encode (.packop f))]) s = .next t →
    runEvents ((texts.flatMap fun x => tinStatement x ++
        [commandEvent (encode (.lit f)), commandEvent (encode (.pack f))]) ++
      [commandEvent (encode (.render f))]) s = .next t' →
    t.faulted = false → t'.faulted = false → t.tout = t'.tout

/-- R198 (e), R200 (f): with `BSEQ` empty, SWAPOP gives the same `TOUT` as LIT, PACK big-endian, BREV and
RENDER, and PASSOP of hex text the same as HEXPARSE and RENDER, with the same fields, provided no
transaction faults. -/
def Obligations.SwapopAndPassopEqualPrimitives : Prop :=
  ∀ (f : Fields) (s t t' : State),
    s.faulted = false → s.bseq = [] → t.faulted = false → t'.faulted = false →
    ((Instr.swapop f).wellFormed = true →
      runEvents [commandEvent (encode (.swapop f))] s = .next t →
      runEvents [commandEvent (encode (.lit f)),
        commandEvent (encode (.pack { f with endian := .big })),
        commandEvent (encode (.brev f)), commandEvent (encode (.render f))] s = .next t' →
      t.tout = t'.tout) ∧
    (f.infmt = .hexText →
      runEvents [commandEvent (encode (.passop f))] s = .next t →
      runEvents [commandEvent (encode (.hexparse f)), commandEvent (encode (.render f))] s =
        .next t' →
      t.tout = t'.tout)
end

