-- ==== Sys2Proof/Laws/State.lean ====
section
/-! SUPPORT. What each named update of Machine/Ops.lean does to each field of the state: one lemma per field per
update, so that no later proof unfolds an update. -/

namespace Sys2Proof.Machine

section withValFields
variable (s : State) (v : Scalar)

@[simp] theorem State.withVal_val : (s.withVal v).val = v := rfl
@[simp] theorem State.withVal_tin : (s.withVal v).tin = s.tin := rfl
@[simp] theorem State.withVal_bseq : (s.withVal v).bseq = s.bseq := rfl
@[simp] theorem State.withVal_tout : (s.withVal v).tout = s.tout := rfl
@[simp] theorem State.withVal_sepLen : (s.withVal v).sepLen = s.sepLen := rfl
@[simp] theorem State.withVal_sepb : (s.withVal v).sepb = s.sepb := rfl
@[simp] theorem State.withVal_repeatCnt : (s.withVal v).repeatCnt = s.repeatCnt := rfl
@[simp] theorem State.withVal_maxCnt : (s.withVal v).maxCnt = s.maxCnt := rfl
@[simp] theorem State.withVal_er : (s.withVal v).er = s.er := rfl
@[simp] theorem State.withVal_cfg : (s.withVal v).cfg = s.cfg := rfl
@[simp] theorem State.withVal_inbox : (s.withVal v).inbox = s.inbox := rfl
@[simp] theorem State.withVal_replies : (s.withVal v).replies = s.replies := rfl
@[simp] theorem State.withVal_faultMark : (s.withVal v).faultMark = s.faultMark := rfl

end withValFields

section withTinFields
variable (s : State) (q : List Byte)

@[simp] theorem State.withTin_val : (s.withTin q).val = s.val := rfl
@[simp] theorem State.withTin_tin : (s.withTin q).tin = q := rfl
@[simp] theorem State.withTin_bseq : (s.withTin q).bseq = s.bseq := rfl
@[simp] theorem State.withTin_tout : (s.withTin q).tout = s.tout := rfl
@[simp] theorem State.withTin_sepLen : (s.withTin q).sepLen = s.sepLen := rfl
@[simp] theorem State.withTin_sepb : (s.withTin q).sepb = s.sepb := rfl
@[simp] theorem State.withTin_repeatCnt : (s.withTin q).repeatCnt = s.repeatCnt := rfl
@[simp] theorem State.withTin_maxCnt : (s.withTin q).maxCnt = s.maxCnt := rfl
@[simp] theorem State.withTin_er : (s.withTin q).er = s.er := rfl
@[simp] theorem State.withTin_cfg : (s.withTin q).cfg = s.cfg := rfl
@[simp] theorem State.withTin_inbox : (s.withTin q).inbox = s.inbox := rfl
@[simp] theorem State.withTin_replies : (s.withTin q).replies = s.replies := rfl
@[simp] theorem State.withTin_faultMark : (s.withTin q).faultMark = s.faultMark := rfl

end withTinFields

section withBseqFields
variable (s : State) (q : List Byte)

@[simp] theorem State.withBseq_val : (s.withBseq q).val = s.val := rfl
@[simp] theorem State.withBseq_tin : (s.withBseq q).tin = s.tin := rfl
@[simp] theorem State.withBseq_bseq : (s.withBseq q).bseq = q := rfl
@[simp] theorem State.withBseq_tout : (s.withBseq q).tout = s.tout := rfl
@[simp] theorem State.withBseq_sepLen : (s.withBseq q).sepLen = s.sepLen := rfl
@[simp] theorem State.withBseq_sepb : (s.withBseq q).sepb = s.sepb := rfl
@[simp] theorem State.withBseq_repeatCnt : (s.withBseq q).repeatCnt = s.repeatCnt := rfl
@[simp] theorem State.withBseq_maxCnt : (s.withBseq q).maxCnt = s.maxCnt := rfl
@[simp] theorem State.withBseq_er : (s.withBseq q).er = s.er := rfl
@[simp] theorem State.withBseq_cfg : (s.withBseq q).cfg = s.cfg := rfl
@[simp] theorem State.withBseq_inbox : (s.withBseq q).inbox = s.inbox := rfl
@[simp] theorem State.withBseq_replies : (s.withBseq q).replies = s.replies := rfl
@[simp] theorem State.withBseq_faultMark : (s.withBseq q).faultMark = s.faultMark := rfl

end withBseqFields

section withToutFields
variable (s : State) (q : List Byte)

@[simp] theorem State.withTout_val : (s.withTout q).val = s.val := rfl
@[simp] theorem State.withTout_tin : (s.withTout q).tin = s.tin := rfl
@[simp] theorem State.withTout_bseq : (s.withTout q).bseq = s.bseq := rfl
@[simp] theorem State.withTout_tout : (s.withTout q).tout = q := rfl
@[simp] theorem State.withTout_sepLen : (s.withTout q).sepLen = s.sepLen := rfl
@[simp] theorem State.withTout_sepb : (s.withTout q).sepb = s.sepb := rfl
@[simp] theorem State.withTout_repeatCnt : (s.withTout q).repeatCnt = s.repeatCnt := rfl
@[simp] theorem State.withTout_maxCnt : (s.withTout q).maxCnt = s.maxCnt := rfl
@[simp] theorem State.withTout_er : (s.withTout q).er = s.er := rfl
@[simp] theorem State.withTout_cfg : (s.withTout q).cfg = s.cfg := rfl
@[simp] theorem State.withTout_inbox : (s.withTout q).inbox = s.inbox := rfl
@[simp] theorem State.withTout_replies : (s.withTout q).replies = s.replies := rfl
@[simp] theorem State.withTout_faultMark : (s.withTout q).faultMark = s.faultMark := rfl

end withToutFields

section withSepLenFields
variable (s : State) (d : Word)

@[simp] theorem State.withSepLen_val : (s.withSepLen d).val = s.val := rfl
@[simp] theorem State.withSepLen_tin : (s.withSepLen d).tin = s.tin := rfl
@[simp] theorem State.withSepLen_bseq : (s.withSepLen d).bseq = s.bseq := rfl
@[simp] theorem State.withSepLen_tout : (s.withSepLen d).tout = s.tout := rfl
@[simp] theorem State.withSepLen_sepLen : (s.withSepLen d).sepLen = d := rfl
@[simp] theorem State.withSepLen_sepb : (s.withSepLen d).sepb = s.sepb := rfl
@[simp] theorem State.withSepLen_repeatCnt : (s.withSepLen d).repeatCnt = s.repeatCnt := rfl
@[simp] theorem State.withSepLen_maxCnt : (s.withSepLen d).maxCnt = s.maxCnt := rfl
@[simp] theorem State.withSepLen_er : (s.withSepLen d).er = s.er := rfl
@[simp] theorem State.withSepLen_cfg : (s.withSepLen d).cfg = s.cfg := rfl
@[simp] theorem State.withSepLen_inbox : (s.withSepLen d).inbox = s.inbox := rfl
@[simp] theorem State.withSepLen_replies : (s.withSepLen d).replies = s.replies := rfl
@[simp] theorem State.withSepLen_faultMark : (s.withSepLen d).faultMark = s.faultMark := rfl

end withSepLenFields

section withSepbFields
variable (s : State) (b : List Byte)

@[simp] theorem State.withSepb_val : (s.withSepb b).val = s.val := rfl
@[simp] theorem State.withSepb_tin : (s.withSepb b).tin = s.tin := rfl
@[simp] theorem State.withSepb_bseq : (s.withSepb b).bseq = s.bseq := rfl
@[simp] theorem State.withSepb_tout : (s.withSepb b).tout = s.tout := rfl
@[simp] theorem State.withSepb_sepLen : (s.withSepb b).sepLen = s.sepLen := rfl
@[simp] theorem State.withSepb_sepb : (s.withSepb b).sepb = b := rfl
@[simp] theorem State.withSepb_repeatCnt : (s.withSepb b).repeatCnt = s.repeatCnt := rfl
@[simp] theorem State.withSepb_maxCnt : (s.withSepb b).maxCnt = s.maxCnt := rfl
@[simp] theorem State.withSepb_er : (s.withSepb b).er = s.er := rfl
@[simp] theorem State.withSepb_cfg : (s.withSepb b).cfg = s.cfg := rfl
@[simp] theorem State.withSepb_inbox : (s.withSepb b).inbox = s.inbox := rfl
@[simp] theorem State.withSepb_replies : (s.withSepb b).replies = s.replies := rfl
@[simp] theorem State.withSepb_faultMark : (s.withSepb b).faultMark = s.faultMark := rfl

end withSepbFields

section withRepeatFields
variable (s : State) (d : Word)

@[simp] theorem State.withRepeat_val : (s.withRepeat d).val = s.val := rfl
@[simp] theorem State.withRepeat_tin : (s.withRepeat d).tin = s.tin := rfl
@[simp] theorem State.withRepeat_bseq : (s.withRepeat d).bseq = s.bseq := rfl
@[simp] theorem State.withRepeat_tout : (s.withRepeat d).tout = s.tout := rfl
@[simp] theorem State.withRepeat_sepLen : (s.withRepeat d).sepLen = s.sepLen := rfl
@[simp] theorem State.withRepeat_sepb : (s.withRepeat d).sepb = s.sepb := rfl
@[simp] theorem State.withRepeat_repeatCnt : (s.withRepeat d).repeatCnt = d := rfl
@[simp] theorem State.withRepeat_maxCnt : (s.withRepeat d).maxCnt = s.maxCnt := rfl
@[simp] theorem State.withRepeat_er : (s.withRepeat d).er = s.er := rfl
@[simp] theorem State.withRepeat_cfg : (s.withRepeat d).cfg = s.cfg := rfl
@[simp] theorem State.withRepeat_inbox : (s.withRepeat d).inbox = s.inbox := rfl
@[simp] theorem State.withRepeat_replies : (s.withRepeat d).replies = s.replies := rfl
@[simp] theorem State.withRepeat_faultMark : (s.withRepeat d).faultMark = s.faultMark := rfl

end withRepeatFields

section withMaxCntFields
variable (s : State) (d : Word)

@[simp] theorem State.withMaxCnt_val : (s.withMaxCnt d).val = s.val := rfl
@[simp] theorem State.withMaxCnt_tin : (s.withMaxCnt d).tin = s.tin := rfl
@[simp] theorem State.withMaxCnt_bseq : (s.withMaxCnt d).bseq = s.bseq := rfl
@[simp] theorem State.withMaxCnt_tout : (s.withMaxCnt d).tout = s.tout := rfl
@[simp] theorem State.withMaxCnt_sepLen : (s.withMaxCnt d).sepLen = s.sepLen := rfl
@[simp] theorem State.withMaxCnt_sepb : (s.withMaxCnt d).sepb = s.sepb := rfl
@[simp] theorem State.withMaxCnt_repeatCnt : (s.withMaxCnt d).repeatCnt = s.repeatCnt := rfl
@[simp] theorem State.withMaxCnt_maxCnt : (s.withMaxCnt d).maxCnt = d := rfl
@[simp] theorem State.withMaxCnt_er : (s.withMaxCnt d).er = s.er := rfl
@[simp] theorem State.withMaxCnt_cfg : (s.withMaxCnt d).cfg = s.cfg := rfl
@[simp] theorem State.withMaxCnt_inbox : (s.withMaxCnt d).inbox = s.inbox := rfl
@[simp] theorem State.withMaxCnt_replies : (s.withMaxCnt d).replies = s.replies := rfl
@[simp] theorem State.withMaxCnt_faultMark : (s.withMaxCnt d).faultMark = s.faultMark := rfl

end withMaxCntFields

section withInboxFields
variable (s : State) (es : List HostEvent)

@[simp] theorem State.withInbox_val : (s.withInbox es).val = s.val := rfl
@[simp] theorem State.withInbox_tin : (s.withInbox es).tin = s.tin := rfl
@[simp] theorem State.withInbox_bseq : (s.withInbox es).bseq = s.bseq := rfl
@[simp] theorem State.withInbox_tout : (s.withInbox es).tout = s.tout := rfl
@[simp] theorem State.withInbox_sepLen : (s.withInbox es).sepLen = s.sepLen := rfl
@[simp] theorem State.withInbox_sepb : (s.withInbox es).sepb = s.sepb := rfl
@[simp] theorem State.withInbox_repeatCnt : (s.withInbox es).repeatCnt = s.repeatCnt := rfl
@[simp] theorem State.withInbox_maxCnt : (s.withInbox es).maxCnt = s.maxCnt := rfl
@[simp] theorem State.withInbox_er : (s.withInbox es).er = s.er := rfl
@[simp] theorem State.withInbox_cfg : (s.withInbox es).cfg = s.cfg := rfl
@[simp] theorem State.withInbox_inbox : (s.withInbox es).inbox = es := rfl
@[simp] theorem State.withInbox_replies : (s.withInbox es).replies = s.replies := rfl
@[simp] theorem State.withInbox_faultMark : (s.withInbox es).faultMark = s.faultMark := rfl

end withInboxFields

section replyFields
variable (s : State) (v : Word)

@[simp] theorem State.reply_val : (s.reply v).val = s.val := rfl
@[simp] theorem State.reply_tin : (s.reply v).tin = s.tin := rfl
@[simp] theorem State.reply_bseq : (s.reply v).bseq = s.bseq := rfl
@[simp] theorem State.reply_tout : (s.reply v).tout = s.tout := rfl
@[simp] theorem State.reply_sepLen : (s.reply v).sepLen = s.sepLen := rfl
@[simp] theorem State.reply_sepb : (s.reply v).sepb = s.sepb := rfl
@[simp] theorem State.reply_repeatCnt : (s.reply v).repeatCnt = s.repeatCnt := rfl
@[simp] theorem State.reply_maxCnt : (s.reply v).maxCnt = s.maxCnt := rfl
@[simp] theorem State.reply_er : (s.reply v).er = s.er := rfl
@[simp] theorem State.reply_cfg : (s.reply v).cfg = s.cfg := rfl
@[simp] theorem State.reply_inbox : (s.reply v).inbox = s.inbox := rfl
@[simp] theorem State.reply_replies : (s.reply v).replies = s.replies ++ [v] := rfl
@[simp] theorem State.reply_faultMark : (s.reply v).faultMark = s.faultMark := rfl

end replyFields

section raiseFields
variable (s : State) (w : Word) (k : CoreFault)

@[simp] theorem State.raise_val : (s.raise w k).val = s.val := rfl
@[simp] theorem State.raise_tin : (s.raise w k).tin = s.tin := rfl
@[simp] theorem State.raise_bseq : (s.raise w k).bseq = s.bseq := rfl
@[simp] theorem State.raise_tout : (s.raise w k).tout = s.tout := rfl
@[simp] theorem State.raise_sepLen : (s.raise w k).sepLen = s.sepLen := rfl
@[simp] theorem State.raise_sepb : (s.raise w k).sepb = s.sepb := rfl
@[simp] theorem State.raise_repeatCnt : (s.raise w k).repeatCnt = s.repeatCnt := rfl
@[simp] theorem State.raise_maxCnt : (s.raise w k).maxCnt = s.maxCnt := rfl
@[simp] theorem State.raise_er : (s.raise w k).er = k.record w := rfl
@[simp] theorem State.raise_cfg : (s.raise w k).cfg = s.cfg := rfl
@[simp] theorem State.raise_inbox : (s.raise w k).inbox = s.inbox := rfl
@[simp] theorem State.raise_replies : (s.raise w k).replies = s.replies := rfl
@[simp] theorem State.raise_faultMark : (s.raise w k).faultMark = true := rfl

end raiseFields

section clearFields
variable (s : State)

@[simp] theorem State.clear_val : (s.clear).val = (Arch.reset s.cfg).val := rfl
@[simp] theorem State.clear_tin : (s.clear).tin = (Arch.reset s.cfg).tin := rfl
@[simp] theorem State.clear_bseq : (s.clear).bseq = (Arch.reset s.cfg).bseq := rfl
@[simp] theorem State.clear_tout : (s.clear).tout = (Arch.reset s.cfg).tout := rfl
@[simp] theorem State.clear_sepLen : (s.clear).sepLen = (Arch.reset s.cfg).sepLen := rfl
@[simp] theorem State.clear_sepb : (s.clear).sepb = (Arch.reset s.cfg).sepb := rfl
@[simp] theorem State.clear_repeatCnt : (s.clear).repeatCnt = (Arch.reset s.cfg).repeatCnt := rfl
@[simp] theorem State.clear_maxCnt : (s.clear).maxCnt = (Arch.reset s.cfg).maxCnt := rfl
@[simp] theorem State.clear_er : (s.clear).er = (Arch.reset s.cfg).er := rfl
@[simp] theorem State.clear_cfg : (s.clear).cfg = s.cfg := rfl
@[simp] theorem State.clear_inbox : (s.clear).inbox = s.inbox := rfl
@[simp] theorem State.clear_replies : (s.clear).replies = s.replies := rfl
@[simp] theorem State.clear_faultMark : (s.clear).faultMark = s.faultMark := rfl

end clearFields

/-- The fields after reset (R48, R250). -/
@[simp] theorem State.resetFor_toArch (cfg : Config) :
    (State.resetFor cfg).toArch = Arch.reset cfg := rfl

@[simp] theorem State.resetFor_cfg (cfg : Config) : (State.resetFor cfg).cfg = cfg := rfl

@[simp] theorem State.resetFor_inbox (cfg : Config) : (State.resetFor cfg).inbox = [] := rfl

@[simp] theorem State.resetFor_replies (cfg : Config) : (State.resetFor cfg).replies = [] := rfl

@[simp] theorem State.resetFor_faultMark (cfg : Config) :
    (State.resetFor cfg).faultMark = false := rfl

@[simp] theorem State.clear_toArch (s : State) : s.clear.toArch = Arch.reset s.cfg := rfl

end Sys2Proof.Machine
end

