-- ==== Sys2Proof/Laws/Ops.lean ====
section
/-! SUPPORT. What the shared operations of Machine/Ops.lean and Machine/Flags.lean can do, each said once. -/

namespace Sys2Proof.Machine

/-- A sequenced computation succeeds exactly when both parts do. -/
theorem except_bind_ok_iff {ε α β : Type} {x : Except ε α} {g : α → Except ε β} {b : β} :
    (x >>= g) = .ok b ↔ ∃ a, x = .ok a ∧ g a = .ok b := by
  cases x <;> simp [bind, Except.bind]

/-- A sequenced computation fails where its first failing part does. -/
theorem except_bind_error_iff {ε α β : Type} {x : Except ε α} {g : α → Except ε β} {e : ε} :
    (x >>= g) = .error e ↔ x = .error e ∨ ∃ a, x = .ok a ∧ g a = .error e := by
  cases x <;> simp [bind, Except.bind]

@[simp] theorem except_ok_bind {ε α β : Type} (a : α) (g : α → Except ε β) :
    (Except.ok a >>= g) = g a := rfl

@[simp] theorem except_error_bind {ε α β : Type} (e : ε) (g : α → Except ε β) :
    ((Except.error e : Except ε α) >>= g) = .error e := rfl

theorem State.faulted_iff (s : State) : s.faulted = true ↔ s.er.err ≠ 0 := by
  simp [State.faulted]

theorem State.not_faulted_iff (s : State) : s.faulted = false ↔ s.er.err = 0 := by
  simp [State.faulted]

/-- No fault kind has code 0, so a fault entry leaves the CORE FAULTED (R227). -/
theorem CoreFault.code_ne_zero (k : CoreFault) : k.code ≠ 0 := by
  cases k <;> simp [CoreFault.code]

@[simp] theorem State.raise_faulted (s : State) (w : Word) (k : CoreFault) :
    (s.raise w k).faulted = true := by
  have h := CoreFault.code_ne_zero k
  simpa [State.faulted, CoreFault.record] using h

@[simp] theorem State.clear_faulted (s : State) : s.clear.faulted = false := rfl

@[simp] theorem gated_of_faulted {s : State} (t : State) (h : s.faulted = true) :
    gated s t = s := by
  simp [gated, h]

@[simp] theorem gated_of_not_faulted {s : State} (t : State) (h : s.faulted = false) :
    gated s t = t := by
  simp [gated, h]

/-- The gate lets a write through or leaves the state as it is. -/
theorem gated_cases (s t : State) :
    (s.faulted = true ∧ gated s t = s) ∨ (s.faulted = false ∧ gated s t = t) := by
  cases h : s.faulted <;> simp [h]

theorem runCommand_faulted {i : Instr} {s : State} (r : Except CoreFault State)
    (h : s.faulted = true) : runCommand i s r = .next s := by
  simp [runCommand, h]

theorem runCommand_ok {i : Instr} {s : State} (t : State) (h : s.faulted = false) :
    runCommand i s (.ok t) = .next t := by
  simp [runCommand, h]

theorem runCommand_error {i : Instr} {s : State} (k : CoreFault) (h : s.faulted = false) :
    runCommand i s (.error k) = .next (s.raise (encode i) k) := by
  simp [runCommand, h]

/-- Everything a command can do: nothing while FAULTED; otherwise its effects, or fault entry. -/
theorem runCommand_cases {i : Instr} {s t : State} {r : Except CoreFault State}
    (h : runCommand i s r = .next t) :
    (s.faulted = true ∧ t = s) ∨ (s.faulted = false ∧ r = .ok t) ∨
      (s.faulted = false ∧ ∃ k, r = .error k ∧ t = s.raise (encode i) k) := by
  cases hf : s.faulted with
  | true =>
    rw [runCommand_faulted r hf] at h
    cases h
    simp
  | false =>
    cases r with
    | ok u =>
      rw [runCommand_ok u hf] at h
      cases h
      simp
    | error k =>
      rw [runCommand_error k hf] at h
      cases h
      simp

/-- A command always has a next state. -/
theorem runCommand_isNext (i : Instr) (s : State) (r : Except CoreFault State) :
    ∃ t, runCommand i s r = .next t :=
  ⟨_, rfl⟩

theorem roomFor_ok_iff {len cap needed : Nat} {u : Unit} :
    roomFor len cap needed = .ok u ↔ len + needed ≤ cap := by
  unfold roomFor
  split <;> simp_all

theorem roomFor_error_iff {len cap needed : Nat} {k : CoreFault} :
    roomFor len cap needed = .error k ↔
      cap < len + needed ∧ k = .capacityError needed (cap - len) := by
  unfold roomFor
  split
  · rename_i h
    simp [Nat.not_lt.mpr h]
  · rename_i h
    simp [Nat.lt_of_not_le h, eq_comm]

/-- A count that fits is recorded as it is (R226). -/
theorem sat32_of_lt {n : Nat} (h : n < 2 ^ 32) : sat32 n = BitVec.ofNat 32 n := by
  have : min n (2 ^ 32 - 1) = n := by omega
  rw [sat32, this]

end Sys2Proof.Machine
end

