-- ==== Sys2Proof/Laws/Operands.lean ====
section
/-! SUPPORT. The operand forms: widths, the scalar, the separator. -/

namespace Sys2Proof

/-- A width code is valid exactly when it selects a width (R84). -/
theorem Width.ofCode_isSome_iff (wc : BitVec 3) :
    (Width.ofCode wc).isSome = true ↔ wc.toNat ≤ 4 := by
  revert wc
  decide

/-- The bytes a valid width code selects: `2^WC` (R84). -/
theorem Width.bytes_of_ofCode {wc : BitVec 3} {w : Width} (h : Width.ofCode wc = some w) :
    w.bytes = 2 ^ wc.toNat := by
  have key : ∀ wc : BitVec 3, ∀ w ∈ Width.ofCode wc, w.bytes = 2 ^ wc.toNat := by decide
  exact key wc w h

theorem Width.bytes_pos (w : Width) : 0 < w.bytes := by cases w <;> decide

theorem Width.bytes_le (w : Width) : w.bytes ≤ 16 := by cases w <;> decide

theorem Width.bits_eq (w : Width) : w.bits = 8 * w.bytes := rfl

theorem Width.bits_le (w : Width) : w.bits ≤ 128 := by cases w <;> decide

end Sys2Proof

namespace Sys2Proof.Machine

theorem widthOf_ok_iff {f : Fields} {w : Width} :
    widthOf f = .ok w ↔ Width.ofCode f.wc = some w := by
  unfold widthOf
  split <;> simp_all

theorem widthOf_error_iff {f : Fields} {k : CoreFault} :
    widthOf f = .error k ↔ Width.ofCode f.wc = none ∧ k = .unsupportedWidthError := by
  unfold widthOf
  cases Width.ofCode f.wc <;> simp [eq_comm]

/-- A well-formed command's width code selects a width. -/
theorem widthOf_of_valid {f : Fields} (h : f.widthCodeValid = true) : ∃ w, widthOf f = .ok w := by
  have hs : (Width.ofCode f.wc).isSome = true :=
    (Width.ofCode_isSome_iff f.wc).mpr (by simpa [Fields.widthCodeValid] using h)
  obtain ⟨w, hw⟩ := Option.isSome_iff_exists.mp hs
  exact ⟨w, widthOf_ok_iff.mpr hw⟩

/-- The scalar in `VAL` lies in the scalar domain (R21). -/
theorem State.scalar_bounds (s : State) : smin ≤ s.scalar ∧ s.scalar ≤ smax := by
  have h1 := BitVec.le_toInt s.val
  have h2 := BitVec.toInt_lt (x := s.val)
  simp only [State.scalar, smin, smax]
  constructor <;> push_cast <;> norm_num at h1 h2 ⊢ <;> omega

/-- The separator depends on the separator registers alone (R25). -/
theorem State.separator_congr {s t : State} (hb : t.sepb = s.sepb) (hl : t.sepLen = s.sepLen) :
    t.separator = s.separator := by
  simp [State.separator, hb, hl]

end Sys2Proof.Machine
end

