-- ==== Sys2Proof/Laws/Codec.lean ====
section
/-! SUPPORT. When `pack` gives bytes and when it raises, and which. -/

namespace Sys2Proof.Machine

theorem modulus_pos (w : Width) : 0 < modulus w := Nat.two_pow_pos _

/-- The modulus is twice its half (R101). -/
theorem modulus_eq (w : Width) : modulus w = 2 * halfModulus w := by
  cases w <;> decide

theorem packCheck_truncating (v : Int) (w : Width) (sg : Bool) : packCheck v w sg false = .ok () := rfl

theorem packCheck_signed_ok_iff {v : Int} {w : Width} {u : Unit} :
    packCheck v w true true = .ok u ↔
      -(halfModulus w : Int) ≤ v ∧ v ≤ (halfModulus w : Int) - 1 := by
  simp only [packCheck, if_true]
  split
  · simp; omega
  · simp; omega

theorem packCheck_unsigned_ok_iff {v : Int} {w : Width} {u : Unit} :
    packCheck v w false true = .ok u ↔ 0 ≤ v ∧ v ≤ (modulus w : Int) - 1 := by
  simp only [packCheck, if_true]
  split
  · simp at *
  · split
    · simp; omega
    · split
      · simp; omega
      · simp; omega

/-- The fault of a refused value: SignError for a negative one under the unsigned policy, else
RangeError (R102). -/
theorem packCheck_error {v : Int} {w : Width} {sg st : Bool} {k : CoreFault}
    (h : packCheck v w sg st = .error k) :
    st = true ∧ ((sg = false ∧ v < 0 ∧ k = .signError v w.bits) ∨
      ((sg = true ∨ 0 ≤ v) ∧ k = .rangeError v w.bits)) := by
  unfold packCheck at h
  split at h
  · refine ⟨by assumption, ?_⟩
    split at h
    · split at h <;> cases h
      exact .inr ⟨.inl (by assumption), rfl⟩
    · split at h
      · cases h
        exact .inl ⟨by simp_all, by assumption, rfl⟩
      · split at h <;> cases h
        exact .inr ⟨.inr (by omega), rfl⟩
  · cases h

/-- `pack` gives bytes exactly when its check passes, and then the bytes of the residue (R105). -/
theorem pack_ok_iff {v : Int} {w : Width} {e : Endian} {sg st : Bool} {b : List Byte} :
    pack v w e sg st = .ok b ↔
      packCheck v w sg st = .ok () ∧ b = splitBytes e w.bytes (maskedMagnitude v w) := by
  simp only [pack, except_bind_ok_iff, pure, Except.pure, Except.ok.injEq]
  exact ⟨fun ⟨_, h1, h2⟩ => ⟨h1, h2.symm⟩, fun ⟨h1, h2⟩ => ⟨(), h1, h2.symm⟩⟩

/-- `pack` raises what its check raises (R105). -/
theorem pack_error_iff {v : Int} {w : Width} {e : Endian} {sg st : Bool} {k : CoreFault} :
    pack v w e sg st = .error k ↔ packCheck v w sg st = .error k := by
  simp [pack, except_bind_error_iff, pure, Except.pure]

@[simp] theorem splitBytes_length (e : Endian) (n m : Nat) : (splitBytes e n m).length = n := by
  simp [splitBytes]

end Sys2Proof.Machine
end

