-- ==== Sys2Proof/Laws/Commands.lean ====
section
/-! SUPPORT. What each command can do, said once: if it answers a next state, then one of the listed cases
holds. Invariants and frames are derived from these, not from the meanings. -/

namespace Sys2Proof.Machine

/-- The three ways a command ends, in the shape every lemma of this file has: ignored while FAULTED,
fault entry, or success with the facts `P`. -/
def CommandEnds (i : Instr) (s t : State) (P : Prop) : Prop :=
  (s.faulted = true ∧ t = s) ∨ (s.faulted = false ∧ ∃ k, t = s.raise (encode i) k) ∨
    (s.faulted = false ∧ P)

/-- From the facts of a successful body to the ways the command ends. -/
theorem commandEnds_of_runCommand {i : Instr} {s t : State} {r : Except CoreFault State} {P : Prop}
    (h : runCommand i s r = .next t) (hok : r = .ok t → P) : CommandEnds i s t P := by
  rcases runCommand_cases h with h1 | ⟨hf, hr⟩ | ⟨hf, k, -, hk⟩
  · exact .inl h1
  · exact .inr (.inr ⟨hf, hok hr⟩)
  · exact .inr (.inl ⟨hf, k, hk⟩)

theorem appendRendered_ok_iff {s : State} {f : Fields} {p : List Byte} {k : Nat} {o : List Byte} :
    appendRendered s f p k = .ok o ↔
      s.tout.length + renderLength (k * p.length) f.fmt s.separator.length ≤ s.cfg.toutCap ∧
        o = s.tout ++ render (repeatBytes p k) f.fmt s.separator f.upper := by
  simp only [appendRendered, except_bind_ok_iff, roomFor_ok_iff, pure, Except.pure,
    Except.ok.injEq]
  constructor
  · rintro ⟨-, h1, h2⟩
    exact ⟨h1, h2.symm⟩
  · rintro ⟨h1, h2⟩
    exact ⟨(), h1, h2.symm⟩

theorem execPack_cases {f : Fields} {s t : State} (h : exec (.pack f) s = .next t) :
    CommandEnds (.pack f) s t (∃ w b, Width.ofCode f.wc = some w ∧
      pack s.scalar w f.endian f.signed f.strict = .ok b ∧
      s.bseq.length + w.bytes ≤ s.cfg.bseqCap ∧ t = s.withBseq (s.bseq ++ b)) := by
  refine commandEnds_of_runCommand h fun hr => ?_
  simp only [except_bind_ok_iff, widthOf_ok_iff, roomFor_ok_iff, pure, Except.pure,
    Except.ok.injEq] at hr
  obtain ⟨w, hw, b, hb, -, hroom, rfl⟩ := hr
  exact ⟨w, b, hw, hb, hroom, rfl⟩

theorem execUnpack_cases {f : Fields} {s t : State} (h : exec (.unpack f) s = .next t) :
    CommandEnds (.unpack f) s t (∃ w, Width.ofCode f.wc = some w ∧ w.bytes ≤ s.bseq.length ∧
      t = (s.withBseq (s.bseq.drop w.bytes)).withVal
        (BitVec.ofInt 129 (unpack (s.bseq.take w.bytes) w f.endian f.signed))) := by
  refine commandEnds_of_runCommand h fun hr => ?_
  simp only [except_bind_ok_iff, widthOf_ok_iff, pure, Except.pure] at hr
  obtain ⟨w, hw, hr⟩ := hr
  split at hr
  · cases hr
  · rename_i hlen
    exact ⟨w, hw, Nat.le_of_not_lt hlen, (Except.ok.inj hr).symm⟩

theorem execHexparse_cases {f : Fields} {s t : State} (h : exec (.hexparse f) s = .next t) :
    CommandEnds (.hexparse f) s t (∃ b, parse s.cfg.wsSet s.tin = .ok b ∧
      s.bseq.length + b.length ≤ s.cfg.bseqCap ∧ t = (s.withBseq (s.bseq ++ b)).withTin []) := by
  refine commandEnds_of_runCommand h fun hr => ?_
  simp only [except_bind_ok_iff, roomFor_ok_iff, pure, Except.pure, Except.ok.injEq] at hr
  obtain ⟨b, hb, -, hroom, rfl⟩ := hr
  exact ⟨b, hb, hroom, rfl⟩

theorem execRender_cases {f : Fields} {s t : State} (h : exec (.render f) s = .next t) :
    CommandEnds (.render f) s t (∃ o, appendRendered s f s.bseq 1 = .ok o ∧
      t = (s.withTout o).withBseq []) := by
  refine commandEnds_of_runCommand h fun hr => ?_
  simp only [except_bind_ok_iff, pure, Except.pure, Except.ok.injEq] at hr
  obtain ⟨o, ho, rfl⟩ := hr
  exact ⟨o, ho, rfl⟩

theorem execLit_cases {f : Fields} {s t : State} (h : exec (.lit f) s = .next t) :
    CommandEnds (.lit f) s t (∃ v, literal (dropTerminator s.tin) 0 = .ok v ∧
      t = (s.withVal (BitVec.ofInt 129 v)).withTin []) := by
  refine commandEnds_of_runCommand h fun hr => ?_
  simp only [except_bind_ok_iff, pure, Except.pure, Except.ok.injEq] at hr
  obtain ⟨v, hv, rfl⟩ := hr
  exact ⟨v, hv, rfl⟩

theorem execDecout_cases {f : Fields} {s t : State} (h : exec (.decout f) s = .next t) :
    CommandEnds (.decout f) s t
      (s.tout.length + (decLine s.scalar).length ≤ s.cfg.toutCap ∧
        t = s.withTout (s.tout ++ decLine s.scalar)) := by
  refine commandEnds_of_runCommand h fun hr => ?_
  simp only [except_bind_ok_iff, roomFor_ok_iff, pure, Except.pure, Except.ok.injEq] at hr
  obtain ⟨-, hroom, rfl⟩ := hr
  exact ⟨hroom, rfl⟩

theorem execBrev_cases {f : Fields} {s t : State} (h : exec (.brev f) s = .next t) :
    CommandEnds (.brev f) s t (t = s.withBseq s.bseq.reverse) := by
  have hr : runCommand (.brev f) s (.ok (s.withBseq s.bseq.reverse)) = .next t := h
  exact commandEnds_of_runCommand hr fun hr => (Except.ok.inj hr).symm

theorem execPackop_cases {f : Fields} {s t : State} (h : exec (.packop f) s = .next t) :
    CommandEnds (.packop f) s t (∃ w p o, Width.ofCode f.wc = some w ∧
      packLiterals w f (frame s.tin) = .ok p ∧ appendRendered s f p s.repetitions = .ok o ∧
      t = (s.withTout o).withTin []) := by
  refine commandEnds_of_runCommand h fun hr => ?_
  simp only [except_bind_ok_iff, widthOf_ok_iff, pure, Except.pure, Except.ok.injEq] at hr
  obtain ⟨w, hw, p, hp, o, ho, rfl⟩ := hr
  exact ⟨w, p, o, hw, hp, ho, rfl⟩

theorem execUnpackop_cases {f : Fields} {s t : State} (h : exec (.unpackop f) s = .next t) :
    CommandEnds (.unpackop f) s t (∃ w b, Width.ofCode f.wc = some w ∧ inputBytes f s = .ok b ∧
      s.tout.length + (unpackLines s w f b).length ≤ s.cfg.toutCap ∧
      t = (s.withTout (s.tout ++ unpackLines s w f b)).withTin []) := by
  refine commandEnds_of_runCommand h fun hr => ?_
  simp only [except_bind_ok_iff, widthOf_ok_iff, roomFor_ok_iff, pure, Except.pure,
    Except.ok.injEq] at hr
  obtain ⟨w, hw, b, hb, -, hroom, rfl⟩ := hr
  exact ⟨w, b, hw, hb, hroom, rfl⟩

theorem execSwapop_cases {f : Fields} {s t : State} (h : exec (.swapop f) s = .next t) :
    CommandEnds (.swapop f) s t (∃ w v p o, Width.ofCode f.wc = some w ∧
      literal (dropTerminator s.tin) 0 = .ok v ∧ pack v w .big f.signed f.strict = .ok p ∧
      appendRendered s f p.reverse 1 = .ok o ∧ t = (s.withTout o).withTin []) := by
  refine commandEnds_of_runCommand h fun hr => ?_
  simp only [except_bind_ok_iff, widthOf_ok_iff, pure, Except.pure, Except.ok.injEq] at hr
  obtain ⟨w, hw, v, hv, p, hp, o, ho, rfl⟩ := hr
  exact ⟨w, v, p, o, hw, hv, hp, ho, rfl⟩

theorem execPassop_cases {f : Fields} {s t : State} (h : exec (.passop f) s = .next t) :
    CommandEnds (.passop f) s t (∃ b o, inputBytes f s = .ok b ∧
      appendRendered s f b 1 = .ok o ∧ t = (s.withTout o).withTin []) := by
  refine commandEnds_of_runCommand h fun hr => ?_
  simp only [except_bind_ok_iff, pure, Except.pure, Except.ok.injEq] at hr
  obtain ⟨b, hb, o, ho, rfl⟩ := hr
  exact ⟨b, o, hb, ho, rfl⟩

theorem execClr_eq (f : Fields) (s : State) : exec (.clr f) s = .next s.clear := rfl

end Sys2Proof.Machine
end

