-- ==== Sys2Proof/Laws/PerInstr.lean ====
section
/-! SUPPORT. Facts about every command as syntax, one lemma per constructor. -/

namespace Sys2Proof.Laws

/-- The low four bits of an encoded word are its opcode, and its reserved bits are zero, whatever the
fields (R82, R93). -/
theorem encodeWord_matchTest (op : BitVec 4) (f : Fields) :
    encodeWord op f &&& 0xFFFF800F#32 = op.setWidth 32 := by
  have key : ∀ m : BitVec 11, (0#17 ++ m ++ op) &&& 0xFFFF800F#32 = op.setWidth 32 := by
    intro m
    apply BitVec.eq_of_getLsbD_eq
    intro i hi
    have hi' : i < 4 ∨ (4 ≤ i ∧ i < 15) ∨ 15 ≤ i := by omega
    simp only [BitVec.getLsbD_and, BitVec.getLsbD_append, BitVec.getLsbD_setWidth]
    interval_cases i <;> simp
  exact key f.toBits

/-- The match test of the opcode table (R85) holds of a command's own word. -/
def MatchTest.Statement (i : Instr) : Prop := encode i &&& 0xFFFF800F#32 = i.opcode.setWidth 32

theorem MatchTest.pack (f : Fields) : MatchTest.Statement (.pack f) := encodeWord_matchTest _ f
theorem MatchTest.unpack (f : Fields) : MatchTest.Statement (.unpack f) := encodeWord_matchTest _ f
theorem MatchTest.hexparse (f : Fields) : MatchTest.Statement (.hexparse f) :=
  encodeWord_matchTest _ f
theorem MatchTest.render (f : Fields) : MatchTest.Statement (.render f) := encodeWord_matchTest _ f
theorem MatchTest.lit (f : Fields) : MatchTest.Statement (.lit f) := encodeWord_matchTest _ f
theorem MatchTest.decout (f : Fields) : MatchTest.Statement (.decout f) := encodeWord_matchTest _ f
theorem MatchTest.brev (f : Fields) : MatchTest.Statement (.brev f) := encodeWord_matchTest _ f
theorem MatchTest.packop (f : Fields) : MatchTest.Statement (.packop f) := encodeWord_matchTest _ f
theorem MatchTest.unpackop (f : Fields) : MatchTest.Statement (.unpackop f) :=
  encodeWord_matchTest _ f
theorem MatchTest.swapop (f : Fields) : MatchTest.Statement (.swapop f) := encodeWord_matchTest _ f
theorem MatchTest.passop (f : Fields) : MatchTest.Statement (.passop f) := encodeWord_matchTest _ f
theorem MatchTest.clr (f : Fields) : MatchTest.Statement (.clr f) := encodeWord_matchTest _ f

end Sys2Proof.Laws
end

