-- ==== Sys2Proof/Laws/Texts.lean ====
section
/-! SUPPORT. The recursions over texts, one equation per case, and when their parts succeed. -/

namespace Sys2Proof.Machine

/-- A byte of 0x80 or more separates nothing, whatever `WS_SET` is (R12). -/
theorem isSep_of_high {ws : List Byte} {c : Byte} (h : 0x80 ≤ c.toNat) : isSep ws c = false := by
  have hd : isDelimiter c = false := by
    revert c
    decide
  simp [isSep, isWhitespace, hd, Nat.not_lt.mpr h]

@[simp] theorem rawTokens_nil (ws : List Byte) (pos : Nat) (cur : List Byte) :
    rawTokens ws pos cur [] = if cur.isEmpty then [] else [(pos - cur.length, cur)] := rfl

theorem rawTokens_cons_sep {ws : List Byte} {c : Byte} (pos : Nat) (t : List Byte)
    (h : isSep ws c = true) : rawTokens ws pos [] (c :: t) = rawTokens ws (pos + 1) [] t := by
  simp [rawTokens, h]

theorem rawTokens_cons_end {ws cur : List Byte} {c : Byte} (pos : Nat) (t : List Byte)
    (h : isSep ws c = true) (hc : cur ≠ []) :
    rawTokens ws pos cur (c :: t) = (pos - cur.length, cur) :: rawTokens ws (pos + 1) [] t := by
  simp [rawTokens, h, hc]

theorem rawTokens_cons_char {ws : List Byte} {c : Byte} (pos : Nat) (cur t : List Byte)
    (h : isSep ws c = false) :
    rawTokens ws pos cur (c :: t) = rawTokens ws (pos + 1) (cur ++ [c]) t := by
  simp [rawTokens, h]

/-- A token parses exactly when, stripped, it is an even number of hexadecimal digits (R134 to R136). -/
theorem parseToken_ok_iff {pos : Nat} {tok b : List Byte} :
    parseToken pos tok = .ok b ↔ (stripPrefix tok).length % 2 = 0 ∧
      (stripPrefix tok).all ishex = true ∧ b = hexPairs (stripPrefix tok) := by
  unfold parseToken
  dsimp only
  split
  · simp; omega
  · rename_i h1
    have h0 : (stripPrefix tok).length % 2 = 0 := by omega
    split
    · rename_i h2
      simp only [Except.ok.injEq, h0, h2, true_and]
      exact ⟨Eq.symm, Eq.symm⟩
    · rename_i h2
      simp [h2]

/-- The fault of a token: the length check first, then the digit check (R135). -/
theorem parseToken_error {pos : Nat} {tok : List Byte} {k : CoreFault}
    (h : parseToken pos tok = .error k) :
    ((stripPrefix tok).length % 2 = 1 ∧ k = .oddNibbleError pos tok.length) ∨
      ((stripPrefix tok).length % 2 = 0 ∧ (stripPrefix tok).all ishex = false ∧
        k = .invalidHexError pos tok.length) := by
  unfold parseToken at h
  dsimp only at h
  split at h
  · cases h
    exact .inl ⟨by assumption, rfl⟩
  · split at h
    · cases h
    · rename_i h2
      cases h
      exact .inr ⟨by omega, by simpa using h2, rfl⟩

@[simp] theorem parseTokens_nil : parseTokens [] = .ok [] := rfl

theorem parseTokens_cons_ok_iff {p : Nat × List Byte} {ps : List (Nat × List Byte)} {b : List Byte} :
    parseTokens (p :: ps) = .ok b ↔
      ∃ b1 b2, parseToken p.1 p.2 = .ok b1 ∧ parseTokens ps = .ok b2 ∧ b = b1 ++ b2 := by
  simp only [parseTokens, except_bind_ok_iff, pure, Except.pure, Except.ok.injEq]
  exact ⟨fun ⟨b1, h1, b2, h2, h3⟩ => ⟨b1, b2, h1, h2, h3.symm⟩,
    fun ⟨b1, b2, h1, h2, h3⟩ => ⟨b1, h1, b2, h2, h3.symm⟩⟩

/-- The first token that fails decides the fault (R136). -/
theorem parseTokens_cons_error_iff {p : Nat × List Byte} {ps : List (Nat × List Byte)}
    {k : CoreFault} :
    parseTokens (p :: ps) = .error k ↔ parseToken p.1 p.2 = .error k ∨
      ∃ b, parseToken p.1 p.2 = .ok b ∧ parseTokens ps = .error k := by
  simp [parseTokens, except_bind_error_iff, pure, Except.pure]

/-- A text is a literal of value `v` exactly when its digits spell `v` and `v` is a scalar (R172, R173). -/
theorem literal_ok_iff {s : List Byte} {pos : Nat} {v : Int} :
    literal s pos = .ok v ↔ literalValue s = some v ∧ smin ≤ v ∧ v ≤ smax := by
  unfold literal
  split
  · rename_i u hu
    split
    · rename_i hb
      constructor
      · intro h
        cases h
        exact ⟨hu, hb⟩
      · rintro ⟨h, -⟩
        rw [hu] at h
        cases h
        rfl
    · rename_i hb
      constructor
      · intro h
        cases h
      · rintro ⟨h, h'⟩
        rw [hu] at h
        cases h
        exact absurd h' hb
  · rename_i hu
    simp [hu]

theorem literal_error {s : List Byte} {pos : Nat} {k : CoreFault} (h : literal s pos = .error k) :
    k = .parseLiteralError pos s.length := by
  unfold literal at h
  split at h
  · split at h <;> cases h
    rfl
  · cases h
    rfl

@[simp] theorem packLiterals_nil (w : Width) (f : Fields) : packLiterals w f [] = .ok [] := rfl

theorem packLiterals_cons_ok_iff {w : Width} {f : Fields} {p : Nat × List Byte}
    {ps : List (Nat × List Byte)} {b : List Byte} :
    packLiterals w f (p :: ps) = .ok b ↔ ∃ v b1 b2, literal p.2 p.1 = .ok v ∧
      pack v w f.endian f.signed f.strict = .ok b1 ∧ packLiterals w f ps = .ok b2 ∧
        b = b1 ++ b2 := by
  simp only [packLiterals, except_bind_ok_iff, pure, Except.pure, Except.ok.injEq]
  exact ⟨fun ⟨v, h1, b1, h2, b2, h3, h4⟩ => ⟨v, b1, b2, h1, h2, h3, h4.symm⟩,
    fun ⟨v, b1, b2, h1, h2, h3, h4⟩ => ⟨v, h1, b1, h2, b2, h3, h4.symm⟩⟩

/-- The first fault met, literal by literal, decides (R191). -/
theorem packLiterals_cons_error_iff {w : Width} {f : Fields} {p : Nat × List Byte}
    {ps : List (Nat × List Byte)} {k : CoreFault} :
    packLiterals w f (p :: ps) = .error k ↔ literal p.2 p.1 = .error k ∨
      ∃ v, literal p.2 p.1 = .ok v ∧ (pack v w f.endian f.signed f.strict = .error k ∨
        ∃ b, pack v w f.endian f.signed f.strict = .ok b ∧ packLiterals w f ps = .error k) := by
  simp [packLiterals, except_bind_error_iff, pure, Except.pure]

/-- Pattern repetition is list replication, the empty pattern included (R192). -/
theorem repeatBytes_eq (p : List Byte) (k : Nat) : repeatBytes p k = (List.replicate k p).flatten := by
  unfold repeatBytes
  split
  · rename_i h
    simp_all [List.isEmpty_iff]
  · rfl

@[simp] theorem repeatBytes_one (p : List Byte) : repeatBytes p 1 = p := by
  simp [repeatBytes_eq]

@[simp] theorem repeatBytes_length (p : List Byte) (k : Nat) :
    (repeatBytes p k).length = k * p.length := by
  simp [repeatBytes_eq]

@[simp] theorem chunks_length (n k : Nat) (b : List Byte) : (chunks n k b).length = k := by
  induction k generalizing b with
  | zero => rfl
  | succ k ih => simp [chunks, ih]

end Sys2Proof.Machine
end

