-- ==== Sys2Proof/Laws/Window.lean ====
section
/-! SUPPORT. What the register window, a transaction and a step can do, each said once. -/

namespace Sys2Proof.Machine

/-- Everything a command can do to the state: CLR clears it; any other is ignored while FAULTED, takes a
fault, or writes data queues and `VAL` alone. -/
theorem exec_cases {i : Instr} {s t : State} (h : exec i s = .next t) :
    ((∃ f, i = .clr f) ∧ t = s.clear) ∨
      (¬ (∃ f, i = .clr f) ∧ ((s.faulted = true ∧ t = s) ∨
        (s.faulted = false ∧ ∃ k, t = s.raise (encode i) k) ∨
        (s.faulted = false ∧ ∃ v q b o, t = (((s.withVal v).withTin q).withBseq b).withTout o))) := by
  have key : ∀ P : Prop, CommandEnds i s t P → ¬ (∃ f, i = .clr f) →
      (P → ∃ v q b o, t = (((s.withVal v).withTin q).withBseq b).withTout o) →
      ((∃ f, i = .clr f) ∧ t = s.clear) ∨
      (¬ (∃ f, i = .clr f) ∧ ((s.faulted = true ∧ t = s) ∨
        (s.faulted = false ∧ ∃ k, t = s.raise (encode i) k) ∨
        (s.faulted = false ∧
          ∃ v q b o, t = (((s.withVal v).withTin q).withBseq b).withTout o))) := by
    rintro P (h1 | h2 | ⟨hf, hP⟩) hc himp
    · exact .inr ⟨hc, .inl h1⟩
    · exact .inr ⟨hc, .inr (.inl h2)⟩
    · exact .inr ⟨hc, .inr (.inr ⟨hf, himp hP⟩)⟩
  cases i with
  | clr f => exact .inl ⟨⟨f, rfl⟩, by cases h; rfl⟩
  | pack f =>
    refine key _ (execPack_cases h) (by simp) ?_
    rintro ⟨w, b, -, -, -, rfl⟩
    exact ⟨s.val, s.tin, s.bseq ++ b, s.tout, rfl⟩
  | unpack f =>
    refine key _ (execUnpack_cases h) (by simp) ?_
    rintro ⟨w, -, -, rfl⟩
    exact ⟨_, s.tin, _, s.tout, rfl⟩
  | hexparse f =>
    refine key _ (execHexparse_cases h) (by simp) ?_
    rintro ⟨b, -, -, rfl⟩
    exact ⟨s.val, [], s.bseq ++ b, s.tout, rfl⟩
  | render f =>
    refine key _ (execRender_cases h) (by simp) ?_
    rintro ⟨o, -, rfl⟩
    exact ⟨s.val, s.tin, [], o, rfl⟩
  | lit f =>
    refine key _ (execLit_cases h) (by simp) ?_
    rintro ⟨v, -, rfl⟩
    exact ⟨_, [], s.bseq, s.tout, rfl⟩
  | decout f =>
    refine key _ (execDecout_cases h) (by simp) ?_
    rintro ⟨-, rfl⟩
    exact ⟨s.val, s.tin, s.bseq, _, rfl⟩
  | brev f =>
    refine key _ (execBrev_cases h) (by simp) ?_
    rintro rfl
    exact ⟨s.val, s.tin, s.bseq.reverse, s.tout, rfl⟩
  | packop f =>
    refine key _ (execPackop_cases h) (by simp) ?_
    rintro ⟨w, p, o, -, -, -, rfl⟩
    exact ⟨s.val, [], s.bseq, o, rfl⟩
  | unpackop f =>
    refine key _ (execUnpackop_cases h) (by simp) ?_
    rintro ⟨w, b, -, -, -, rfl⟩
    exact ⟨s.val, [], s.bseq, _, rfl⟩
  | swapop f =>
    refine key _ (execSwapop_cases h) (by simp) ?_
    rintro ⟨w, v, p, o, -, -, -, -, rfl⟩
    exact ⟨s.val, [], s.bseq, o, rfl⟩
  | passop f =>
    refine key _ (execPassop_cases h) (by simp) ?_
    rintro ⟨b, o, -, -, rfl⟩
    exact ⟨s.val, [], s.bseq, o, rfl⟩

/-- A command always has a next state. -/
theorem exec_isNext (i : Instr) (s : State) : ∃ t, exec i s = .next t := by
  cases i <;> exact ⟨_, rfl⟩

/-- What a write to a register other than `CMD` does: nothing, one update, or a capacity fault. -/
theorem storeReg_cases (i : RegIndex) (d : Word) (s : State) (r : Reg) :
    storeReg i d s r = s ∨ storeReg i d s r = s.raise 0 (.capacityWrite i) ∨
      storeReg i d s r = s.withRepeat d ∨ storeReg i d s r = s.withMaxCnt d ∨
      (∃ v, storeReg i d s r = s.withVal v) ∨
      (s.tin.length < s.cfg.tinCap ∧ storeReg i d s r = s.withTin (pushByte s.tin d)) ∨
      (s.bseq.length < s.cfg.bseqCap ∧ storeReg i d s r = s.withBseq (pushByte s.bseq d)) ∨
      (d.toNat ≤ s.cfg.sepCap ∧ storeReg i d s r = s.withSepLen d) ∨
      (∃ k, storeReg i d s r = s.withSepb (s.sepb.set k (d.extractLsb' 0 8))) := by
  cases r with
  | sepByte k => exact .inr (.inr (.inr (.inr (.inr (.inr (.inr (.inr ⟨k, rfl⟩)))))))
  | _ =>
    simp only [storeReg]
    (try split) <;> simp_all

/-- A word decodes as CLR exactly when its reserved bits are zero and its opcode is 0xF (R81). -/
theorem decode_clr_iff (d : Word) :
    isClrWord d ↔ decode d = .ok (.clr (Fields.ofWord d)) := by
  unfold isClrWord decode
  constructor
  · rintro ⟨h1, h2⟩
    simp [h1, h2]
  · intro h
    split at h
    · cases h
    · rename_i h1
      refine ⟨by simpa using h1, ?_⟩
      dsimp only at h
      simp only [withValidWidth] at h
      split at h <;> (try split at h) <;> try cases h
      rename_i h2
      exact BitVec.eq_of_toNat_eq h2

/-- A decoded instruction carries the fields of its word (R82). -/
theorem decode_fields {d : Word} {i : Instr} (h : decode d = .ok i) : i.fields = Fields.ofWord d := by
  unfold decode at h
  split at h
  · cases h
  · dsimp only at h
    simp only [withValidWidth] at h
    split at h <;> (try split at h) <;> cases h <;> rfl

theorem reg_ofIndex_zero (cfg : Config) : Reg.ofIndex cfg 0 = .cmd := rfl

/-- Only index 0 selects `CMD` (R28). -/
theorem reg_ofIndex_eq_cmd {cfg : Config} {i : RegIndex} (h : Reg.ofIndex cfg i = .cmd) : i = 0 := by
  unfold Reg.ofIndex at h
  split at h <;> first
    | cases h; done
    | (rename_i h0; exact BitVec.eq_of_toNat_eq h0)
    | (split at h <;> cases h)

theorem perform_cmd (d : Word) (s : State) : perform (.regWrite 0 d) s = writeCmd d s := rfl

/-- A write to a register other than `CMD`. -/
theorem perform_regWrite {i : RegIndex} (d : Word) (s : State) (hi : i ≠ 0) :
    perform (.regWrite i d) s = .next (gated s (storeReg i d s (Reg.ofIndex s.cfg i))) := by
  simp only [perform, writeReg]
  split
  · rename_i h
    exact absurd (reg_ofIndex_eq_cmd h) hi
  · rfl

/-- A read pops at most one byte and appends one value to the replies. -/
theorem readReg_cases (i : RegIndex) (s : State) :
    ∃ v, readReg i s = s.reply v ∨ readReg i s = (s.withBseq s.bseq.tail).reply v ∨
      readReg i s = (s.withTout s.tout.tail).reply v := by
  refine ⟨readValue s (Reg.ofIndex s.cfg i), ?_⟩
  unfold readReg
  cases Reg.ofIndex s.cfg i <;> simp [afterRead]

end Sys2Proof.Machine
end

