-- ==== Sys2Proof/Tests/Slice0.lean ====
section
/-! SUPPORT. Tests of the model against the spec's own words and vectors, each one step on a small state, and a
witness for the hypotheses of every statement that has some. -/

namespace Sys2Proof.Tests

open Sys2Proof.Machine

-- One theorem after another: many small kernel evaluations at once would each hold a thread.
set_option Elab.async false

/-! ### Helpers -/

/-- The next state, if there is one. -/
def after : Host.Outcome State Fault Refusal → Option State
  | .next s => some s
  | .fault _ => none
  | .refused _ => none

/-- What one command does to the part `p` of a state. -/
def result {α : Type} (p : State → α) (i : Instr) (s : State) : Option α := (after (exec i s)).map p

/-- What one transaction does to the part `p` of a state. -/
def effect {α : Type} (p : State → α) (e : HostEvent) (s : State) : Option α :=
  (after (perform e s)).map p

/-- The test instance with `VAL` = `v`. -/
def withScalar (v : Int) : State := State.reset.withVal (BitVec.ofInt 129 v)

/-- The test instance with text in `TIN`. -/
def withText (t : List Byte) : State := State.reset.withTin t

/-- The test instance with bytes in `BSEQ`. -/
def withBytes (b : List Byte) : State := State.reset.withBseq b

/-- FAULTED by PACK w8 strict with `VAL` = 511 (vector F11). -/
def faultedState : State := (withScalar 511).raise 0x201 (.rangeError 511 8)

def w8 : Fields := zeroFields
def w16be : Fields := { zeroFields with wc := 1, endian := .big }
def w32be : Fields := { zeroFields with wc := 2, endian := .big }
def w64be : Fields := { zeroFields with wc := 3, endian := .big }
def w128 : Fields := { zeroFields with wc := 4 }
def hexOut : Fields := { zeroFields with fmt := .hex }

/-! ### Well-formedness: each check refuses an ill-formed term -/

theorem test_pack_width_5_refused : (Instr.pack { zeroFields with wc := 5 }).wellFormed = false := by
  decide
theorem test_unpack_width_6_refused :
    (Instr.unpack { zeroFields with wc := 6 }).wellFormed = false := by decide
theorem test_packop_width_7_refused :
    (Instr.packop { zeroFields with wc := 7 }).wellFormed = false := by decide
theorem test_unpackop_width_5_refused :
    (Instr.unpackop { zeroFields with wc := 5 }).wellFormed = false := by decide
theorem test_swapop_width_7_refused :
    (Instr.swapop { zeroFields with wc := 7 }).wellFormed = false := by decide
/-- HEXPARSE ignores the width code (R86, R93). -/
theorem test_hexparse_width_5_accepted :
    (Instr.hexparse { zeroFields with wc := 5 }).wellFormed = true := by decide

/-! ### Decoding: words written bit by bit from R82
(reserved 17, LIM, INFMT, UPPER, FMT 2, STRICT, SIGNED, ENDIAN, WC 3, OP 4), with the word of R93 or of
vector table 2.1 -/

theorem test_decode_pack :   -- PACK w16 be s strict
    decode (0b00000000000000000_0_0_0_00_1_1_1_001_0001 : Word) =
      .ok (.pack { zeroFields with wc := 1, endian := .big, signed := true, strict := true }) ∧
    (0b00000000000000000_0_0_0_00_1_1_1_001_0001 : Word) = 0x391 := by decide
theorem test_decode_unpack :   -- UNPACK w128 be s
    decode (0b00000000000000000_0_0_0_00_0_1_1_100_0010 : Word) =
      .ok (.unpack { zeroFields with wc := 4, endian := .big, signed := true }) ∧
    (0b00000000000000000_0_0_0_00_0_1_1_100_0010 : Word) = 0x1C2 := by decide
theorem test_decode_hexparse :   -- HEXPARSE
    decode (0b00000000000000000_0_0_0_00_0_0_0_000_0011 : Word) = .ok (.hexparse zeroFields) := by
  decide
theorem test_decode_render :   -- RENDER py upper
    decode (0b00000000000000000_0_0_1_11_0_0_0_000_0100 : Word) =
      .ok (.render { zeroFields with fmt := .pyEsc, upper := true }) ∧
    (0b00000000000000000_0_0_1_11_0_0_0_000_0100 : Word) = 0x1C04 := by decide
theorem test_decode_lit :   -- LIT
    decode (0b00000000000000000_0_0_0_00_0_0_0_000_0101 : Word) = .ok (.lit zeroFields) := by decide
theorem test_decode_decout :   -- DECOUT
    decode (0b00000000000000000_0_0_0_00_0_0_0_000_0110 : Word) = .ok (.decout zeroFields) := by
  decide
theorem test_decode_brev :   -- BREV
    decode (0b00000000000000000_0_0_0_00_0_0_0_000_0111 : Word) = .ok (.brev zeroFields) := by decide
theorem test_decode_packop :   -- PACKOP w16 be hex
    decode (0b00000000000000000_0_0_0_01_0_0_1_001_1000 : Word) =
      .ok (.packop { w16be with fmt := .hex }) ∧
    (0b00000000000000000_0_0_0_01_0_0_1_001_1000 : Word) = 0x498 := by decide
theorem test_decode_unpackop :   -- UNPACKOP w128 be inraw lim
    decode (0b00000000000000000_1_1_0_00_0_0_1_100_1001 : Word) =
      .ok (.unpackop { zeroFields with wc := 4, endian := .big, infmt := .rawBytes, lim := true }) ∧
    (0b00000000000000000_1_1_0_00_0_0_1_100_1001 : Word) = 0x60C9 := by decide
theorem test_decode_swapop :   -- SWAPOP w64 hex
    decode (0b00000000000000000_0_0_0_01_0_0_0_011_1010 : Word) =
      .ok (.swapop { zeroFields with wc := 3, fmt := .hex }) ∧
    (0b00000000000000000_0_0_0_01_0_0_0_011_1010 : Word) = 0x43A := by decide
theorem test_decode_passop :   -- PASSOP inhex c
    decode (0b00000000000000000_0_0_0_10_0_0_0_000_1011 : Word) =
      .ok (.passop { zeroFields with fmt := .cEsc }) ∧
    (0b00000000000000000_0_0_0_10_0_0_0_000_1011 : Word) = 0x80B := by decide
theorem test_decode_clr :   -- CLR
    decode (0b00000000000000000_0_0_0_00_0_0_0_000_1111 : Word) = .ok (.clr zeroFields) := by decide
/-- Reserved bits before the opcode, the opcode before the width (R81; vector table 2.1). -/
theorem test_decode_rejects :
    [(0x00000000 : Word), 0x0000000C, 0x0000000D, 0x0000000E, 0x0000007C, 0x00008001, 0x80000001,
      0x0000800F, 0xFFFFFFFF].map decode = List.replicate 9 (.error .illegalCommand) ∧
    [(0x00000051 : Word), 0x00000072, 0x00000068, 0x00000059, 0x0000007A, 0x00007FF1].map decode =
      List.replicate 6 (.error .unsupportedWidth) := by decide
/-- The host's entry points: the table's numbering is the command word's (R80). -/
theorem test_decodeTableWord :
    decodeTableWord 32 0x498 = some (.packop { w16be with fmt := .hex }) ∧
    decodeTableWord 32 0x51 = none := by decide
/-- The first step after reset runs a placed word (log 3): BREV leaves the reset state as it is. -/
theorem test_withFetchWord : after (step (State.reset.withFetchWord 32 0x7)) = some State.reset := by
  decide +kernel

/-! ### One step of each command (values from the vector tables of 96_derived_vectors) -/

/-- S5: 0x41424344 at 32 bits, big-endian. -/
theorem test_pack_big :
    result (·.bseq) (.pack w32be) (withScalar 0x41424344) = some [0x41, 0x42, 0x43, 0x44] := by
  decide +kernel
/-- S3: the record of a RangeError. -/
theorem test_pack_range :
    result (·.er) (.pack { w8 with strict := true }) (withScalar 511) =
      some { err := 1, ecmd := 0x201, ebits := 8, epos := 0, elen := 0, errval := 511 } := by
  decide +kernel
/-- P2: `ff fe` is -2 as a signed 16-bit big-endian value; the rest of `BSEQ` stays. -/
theorem test_unpack_signed :
    result (fun s => (s.scalar, s.bseq)) (.unpack { w16be with signed := true })
      (withBytes [0xFF, 0xFE, 0x01, 0x02]) = some (-2, [0x01, 0x02]) := by decide +kernel
/-- F14: too few bytes. -/
theorem test_unpack_short :
    result (·.er) (.unpack { w8 with wc := 2 }) State.reset =
      some { err := 8, ecmd := 0x22, ebits := 0, epos := 0, elen := 4, errval := 0 } := by
  decide +kernel
/-- S7, shortened: `de:ad,  0x00`. -/
theorem test_hexparse_mixed :
    result (fun s => (s.bseq, s.tin)) (.hexparse w8)
      (withText [0x64, 0x65, 0x3A, 0x61, 0x64, 0x2C, 0x20, 0x20, 0x30, 0x78, 0x30, 0x30]) =
      some ([0xDE, 0xAD, 0x00], []) := by decide +kernel
/-- S8, shortened: `0 a`: the first token has one character. -/
theorem test_hexparse_odd :
    result (·.er) (.hexparse w8) (withText [0x30, 0x20, 0x61]) =
      some { err := 3, ecmd := 0x3, ebits := 0, epos := 0, elen := 1, errval := 0 } := by
  decide +kernel
/-- R153: hex digits, the default separator, a newline. -/
theorem test_render_hex :
    result (fun s => (s.tout, s.bseq)) (.render hexOut) (withBytes [0xDE, 0xAD]) =
      some ([0x64, 0x65, 0x20, 0x61, 0x64, 0x0A], []) := by decide +kernel
/-- The source's §6: `b"\x41\x00"` and a newline. -/
theorem test_render_py :
    result (·.tout) (.render { zeroFields with fmt := .pyEsc }) (withBytes [0x41, 0x00]) =
      some [0x62, 0x22, 0x5C, 0x78, 0x34, 0x31, 0x5C, 0x78, 0x30, 0x30, 0x22, 0x0A] := by
  decide +kernel
/-- Vector table 2.7: `-1` with its final 0x00. -/
theorem test_lit_negative :
    result (fun s => (s.scalar, s.tin)) (.lit w8) (withText [0x2D, 0x31, 0x00]) = some (-1, []) := by
  decide +kernel
/-- Vector table 2.7: `+-1` is no literal. -/
theorem test_lit_two_signs :
    result (·.er) (.lit w8) (withText [0x2B, 0x2D, 0x31]) =
      some { err := 5, ecmd := 0x5, ebits := 0, epos := 0, elen := 3, errval := 0 } := by
  decide +kernel
/-- P2: `258` and a newline; `VAL` stays. -/
theorem test_decout :
    result (fun s => (s.tout, s.scalar)) (.decout w8) (withScalar 258) =
      some ([0x32, 0x35, 0x38, 0x0A], 258) := by decide +kernel
/-- F15: no room for `0` and a newline. -/
theorem test_decout_full :
    result (·.er) (.decout w8) (State.reset.withTout (List.replicate 512 0)) =
      some { err := 9, ecmd := 0x6, ebits := 0, epos := 2, elen := 0, errval := 0 } := by
  decide +kernel
theorem test_brev :
    result (·.bseq) (.brev w8) (withBytes [0x41, 0x42, 0x43]) = some [0x43, 0x42, 0x41] := by
  decide +kernel
/-- S9 with repeat count 2 and one value: `0x4142` at 16 bits, big-endian. -/
theorem test_packop_repeat :
    result (fun s => (s.tout, s.tin)) (.packop w16be)
      ((withText [0x30, 0x78, 0x34, 0x31, 0x34, 0x32, 0x00]).withRepeat 2) =
      some ([0x41, 0x42, 0x41, 0x42], []) := by decide +kernel
/-- F18: the third literal is out of range; nothing is appended and `TIN` is kept. -/
theorem test_packop_third_literal :
    result (fun s => (s.er, s.tout, s.tin.length)) (.packop { w8 with strict := true })
      (withText [0x31, 0x00, 0x32, 0x00, 0x33, 0x30, 0x30, 0x00]) =
      some ({ err := 1, ecmd := 0x208, ebits := 8, epos := 0, elen := 0, errval := 300 }, [], 8) := by
  decide +kernel
/-- S10, at 16 bits: the second chunk is consumed and not printed. -/
theorem test_unpackop_limit :
    result (fun s => (s.tout, s.tin)) (.unpackop { w16be with infmt := .rawBytes, lim := true })
      ((withText [0x00, 0x01, 0x00, 0x02]).withMaxCnt 1) = some ([0x31, 0x0A], []) := by
  decide +kernel
/-- Vector table 2.8: `fffe` as two signed bytes. -/
theorem test_unpackop_signed :
    result (·.tout) (.unpackop { w8 with signed := true }) (withText [0x66, 0x66, 0x66, 0x65]) =
      some [0x2D, 0x31, 0x0A, 0x2D, 0x32, 0x0A] := by decide +kernel
/-- S6, at 16 bits: `0x4142` swapped; `ENDIAN` is ignored. -/
theorem test_swapop :
    result (·.tout) (.swapop { w16be with fmt := .raw })
      (withText [0x30, 0x78, 0x34, 0x31, 0x34, 0x32]) = some [0x42, 0x41] := by decide +kernel
/-- Vector table 2.8: two literals are no literal. -/
theorem test_swapop_two_literals :
    result (·.er) (.swapop hexOut) (withText [0x31, 0x00, 0x32, 0x00]) =
      some { err := 5, ecmd := 0x40A, ebits := 0, epos := 0, elen := 3, errval := 0 } := by
  decide +kernel
/-- Vector table 2.8: raw `0g` in hex. -/
theorem test_passop_raw :
    result (·.tout) (.passop { hexOut with infmt := .rawBytes }) (withText [0x30, 0x67]) =
      some [0x33, 0x30, 0x20, 0x36, 0x37, 0x0A] := by decide +kernel
/-- F13: CLR works while FAULTED. -/
theorem test_clr_while_faulted :
    result (·.toArch) (.clr zeroFields) faultedState = some State.reset.toArch := by decide +kernel

/-- R138: `ff`, the byte 0xA0, `00` is one token of five bytes, even in an instance whose `WS_SET` lists 0xA0;
no such instance is legal (R12). -/
theorem test_high_byte_is_ordinary :
    (parse [0x20, 0xA0] [0x66, 0x66, 0xA0, 0x30, 0x30] matches .error (.oddNibbleError 0 5)) = true ∧
      ¬ Config.Legal { Config.testInstance with wsSet := [0x20, 0xA0] } ∧
      Config.Legal Config.testInstance := by decide +kernel

/-! ### Faults and the window (vector tables 2.9 and 2.10) -/

/-- F2: the width is tested before the range. -/
theorem test_width_before_range :
    effect (·.er) (.regWrite 0 0x251) (withScalar 511) =
      some { err := 6, ecmd := 0x251, ebits := 0, epos := 0, elen := 0, errval := 0 } := by
  decide +kernel
/-- F7: the index written, and `ECMD` 0. -/
theorem test_bseq_full :
    effect (fun s => (s.er, s.bseq.length)) (.regWrite 0x1A 5) (withBytes (List.replicate 64 0)) =
      some ({ err := 9, ecmd := 0, ebits := 0, epos := 0x1A, elen := 0, errval := 0 }, 64) := by
  decide +kernel
/-- F9: `SEP_CAP` + 1. -/
theorem test_sep_len_too_long :
    effect (fun s => (s.er.err, s.er.epos, s.sepLen)) (.regWrite 0x1E 17) State.reset =
      some (9, 0x1E, 1) := by decide +kernel
/-- F11: an illegal word while FAULTED is ignored. -/
theorem test_illegal_word_ignored :
    after (perform (.regWrite 0 0x7C) faultedState) = some faultedState := by decide +kernel
/-- F12: a pop works while FAULTED. -/
theorem test_pop_while_faulted :
    effect (fun s => (s.bseq, s.replies)) (.regRead 0x1A) (faultedState.withBseq [1, 2]) =
      some ([2], [1]) := by decide +kernel
/-- W2: bit 0 of the data is bit 128 of `VAL`. -/
theorem test_val4 :
    effect (·.scalar) (.regWrite 0x0C 3) State.reset = some (-(2 ^ 128)) := by decide +kernel
/-- W4: -129 in its words. -/
theorem test_val_words :
    effect (·.replies) (.regRead 0x08) (withScalar (-129)) = some [0xFFFFFF7F] ∧
      effect (·.replies) (.regRead 0x0C) (withScalar (-129)) = some [0xFFFFFFFF] := by decide +kernel
/-- W8: only the low byte is used. -/
theorem test_low_byte :
    effect (·.tin) (.regWrite 0x18 0x1234) State.reset = some [0x34] ∧
      effect (·.sepb.head?) (.regWrite 0x40 0x12C) State.reset = some (some 0x2C) := by
  decide +kernel
/-- W5, W7: `SEPB[16]` does not exist when `SEP_CAP` = 16. -/
theorem test_reserved_index :
    effect (·.replies) (.regRead 0x50) State.reset = some [0] ∧
      after (perform (.regWrite 0x50 5) State.reset) = some State.reset := by decide +kernel
/-- R90, R93: a line and its word; a shorthand; a missing width; a modifier PASSOP does not use. -/
theorem test_assemble :
    Command.assemble .pack [.width .w16, .sign true, .policy true, .order .big] = some 0x391 ∧
      (Mnemonic.packopShort .w32).assemble [.order .big, .format .hex] = some 0x4A8 ∧
      Command.assemble .pack [.order .big] = none ∧
      Command.assemble .passop [.input .hexText, .format .raw, .lim] = none := by decide +kernel

/-! ### Witnesses: the hypotheses of each statement are met, and each of its clauses is reached -/

/-- DecodeOfEncodeIsIdentity, at the greatest valid width code, and with an invalid one that is ignored. -/
theorem witness_DecodeOfEncodeIsIdentity :
    (Instr.pack { zeroFields with wc := 4 }).wellFormed = true ∧
      (Instr.render { zeroFields with wc := 7, lim := true }).wellFormed = true := by decide
theorem witness_EncodeOfDecodeIsIdentity :
    decode 0x00007FF4 = .ok (.render { wc := 7, endian := .big, signed := true, strict := true
                                       fmt := .pyEsc, upper := true, infmt := .rawBytes
                                       lim := true }) := by decide
theorem witness_MatchTestSelectsCommand :
    decode 0x41 = .ok (.pack w128) ∧
      (0x51 : Word) &&& 0xFFFF800F#32 =
        (Command.pack.instr (Fields.ofWord 0x51)).opcode.setWidth 32 := by decide
/-- A reserved bit, a reserved opcode, the width codes 5 and 7, and the width code 4. -/
theorem witness_EveryCommandWordExecutesOrFaults :
    State.reset.faulted = false ∧
      (0x00008001 : Word).extractLsb' 15 17 ≠ 0 ∧
      (0x7C : Word).extractLsb' 0 4 ∈ [(0x0 : BitVec 4), 0xC, 0xD, 0xE] ∧
      (0x51 : Word).extractLsb' 15 17 = 0 ∧
      (0x51 : Word).extractLsb' 0 4 ∈ [(0x1 : BitVec 4), 0x2, 0x8, 0x9, 0xA] ∧
      4 < ((0x51 : Word).extractLsb' 4 3).toNat ∧ 4 < ((0x7A : Word).extractLsb' 4 3).toNat ∧
      ((0x41 : Word).extractLsb' 4 3).toNat ≤ 4 ∧
      (0x73 : Word).extractLsb' 0 4 ∈ [(0x3 : BitVec 4), 0x4, 0x5, 0x6, 0x7, 0xB, 0xF] := by decide
/-- SWAPOP with the two byte orders, in a state where it succeeds and in one where it faults; RENDER raw with
the two cases. -/
theorem witness_IgnoredFieldsHaveNoEffect :
    (∀ n ∈ Command.swapop.usedFields,
      agreeOn w16be { w16be with endian := .little } n = true ∨ (n = .upper ∧ w16be.fmt = .raw)) ∧
      (∀ n ∈ Command.render.usedFields,
        agreeOn w8 { w8 with upper := true } n = true ∨ (n = .upper ∧ w8.fmt = .raw)) ∧
      (∃ t, exec (Command.swapop.instr w16be) (withText [0x31]) = .next t ∧ t.faulted = false) ∧
      (∃ t, exec (Command.swapop.instr w16be) (withText [0x2B]) = .next t ∧ t.faulted = true) :=
  ⟨by decide, by decide, ⟨_, rfl, by decide +kernel⟩, ⟨_, rfl, by decide +kernel⟩⟩
theorem witness_AssembledLinesDecode :
    Command.assemble .unpack [.width .w128, .order .big, .sign true] = some 0x1C2 ∧
      Modifier.lim.field ∉ Command.passop.usedFields ∧
      (∀ m ∈ [Modifier.width .w8, .format .hex], m.field ∈ Command.swapop.usedFields) ∧
      ([Modifier.width .w8, .format .hex].map Modifier.field).Nodup ∧
      [(8, "w8"), (16, "w16"), (32, "w32"), (64, "w64"), (128, "w128")].lookup 128 = some "w128" := by
  decide +kernel
/-- A line with no width is not complete. -/
theorem witness_AssembledLinesDecode_incomplete :
    ¬ (Command.pack ∈ [Command.pack, .unpack, .packop, .unpackop, .swapop] →
      ∃ w, Modifier.width w ∈ [Modifier.order .big]) := by simp
/-- R92: a separator text of 64 bytes is a statement, one of 65 is none (log 18). -/
theorem test_sep_statement :
    (sepStatement [0x2D] = some [.regWrite 0x40 0x2D, .regWrite 0x1E 1]) ∧
      (sepStatement (List.replicate 64 0x2D)).isSome = true ∧
      sepStatement (List.replicate 65 0x2D) = none := by decide +kernel
theorem witness_StepRunsDecodedCommand :
    (State.reset.withFetchWord 32 0x498).inbox = .regWrite 0 0x498 :: [] ∧
      decode 0x498 = .ok (.packop { w16be with fmt := .hex }) ∧
      decode (BitVec.ofNat 32 0x498) = .ok (.packop { w16be with fmt := .hex }) := by decide +kernel
theorem witness_RunPerformsTransactionsInOrder : State.reset.inbox = [] := rfl
/-- A step that pushes a byte, and one that takes a fault. -/
theorem witness_StepKeepsInvariant :
    (State.reset.withInbox [.regWrite 0x18 0x41]).Inv ∧
      (∃ t, step (State.reset.withInbox [.regWrite 0x18 0x41]) = .next t ∧ t.tin = [0x41]) ∧
      (State.reset.withInbox [.regWrite 0x1E 17]).Inv ∧
      (∃ t, step (State.reset.withInbox [.regWrite 0x1E 17]) = .next t ∧ t.faulted = true) :=
  ⟨by decide +kernel, ⟨_, rfl, by decide +kernel⟩, by decide +kernel, ⟨_, rfl, by decide +kernel⟩⟩
/-- The least and the greatest legal instance. -/
theorem witness_ResetSatisfiesInvariant :
    Config.Legal { tinCap := 64, bseqCap := 16, toutCap := 128, sepCap := 1, wsSet := [] } ∧
      Config.Legal { tinCap := 2 ^ 32 - 1, bseqCap := 2 ^ 32 - 1, toutCap := 2 ^ 32 - 1, sepCap := 64
                     wsSet := Config.defaultWhitespace } := by decide +kernel
theorem witness_StepKeepsParameters :
    (∃ t, step (State.reset.withInbox [.regRead 0x1E]) = .next t ∧ t.replies = [1]) ∧
      (∃ i, (State.reset.withInbox [.regRead 0x1E]).inbox.head? = some (.regRead i)) ∧
      (∃ t, step State.reset = .next t) ∧ State.reset.inbox.head? = none :=
  ⟨⟨_, rfl, by decide +kernel⟩, ⟨_, rfl⟩, ⟨_, rfl⟩, rfl⟩
/-- An ignored write, a CLR word, and reads on both sides of `STATUS`. -/
theorem witness_FaultedGate :
    faultedState.faulted = true ∧ ¬ ((0 : RegIndex) = 0 ∧ isClrWord 0x0000800F) ∧
      isClrWord 0x00007FFF ∧ (0x00 : RegIndex) ≠ 0x01 ∧ (0x02 : RegIndex) ≠ 0x01 ∧
      ∃ t, perform (.regRead 0x06) faultedState = .next t := by
  refine ⟨?_, ?_, ?_, ?_, ?_, ⟨_, rfl⟩⟩ <;> decide +kernel
theorem witness_OnlyClrOrResetLeavesFaulted :
    faultedState.faulted = true ∧
      (∃ t, perform .reset faultedState = .next t ∧ t.faulted = false) ∧
      (∃ t, perform (.regWrite 0 0xF) faultedState = .next t ∧ t.faulted = false) :=
  ⟨by decide +kernel, ⟨_, rfl, by decide +kernel⟩, ⟨_, rfl, by decide +kernel⟩⟩
/-- A fault at each of the four registers that can raise one. -/
theorem witness_FaultEntryIsPrecise :
    (∃ t, perform (.regWrite 0x00 0) State.reset = .next t ∧ t.faulted = true) ∧
      (∃ t, perform (.regWrite 0x18 0) (withText (List.replicate 256 0)) = .next t ∧
        t.faulted = true) ∧
      (∃ t, perform (.regWrite 0x1A 0) (withBytes (List.replicate 64 0)) = .next t ∧
        t.faulted = true) ∧
      (∃ t, perform (.regWrite 0x1E 17) State.reset = .next t ∧ t.faulted = true) ∧
      State.reset.faulted = false :=
  ⟨⟨_, rfl, by decide +kernel⟩, ⟨_, rfl, by decide +kernel⟩, ⟨_, rfl, by decide +kernel⟩,
    ⟨_, rfl, by decide +kernel⟩, by decide +kernel⟩
/-- A command that faults, another register that faults, CLR, and a write that faults in no way. -/
theorem witness_EcmdRecordsCommandWord :
    (∃ t, perform (.regWrite 0 0x7C) State.reset = .next t ∧ State.reset.faulted = false ∧
        t.faulted = true) ∧
      (∃ t, perform (.regWrite 0x1E 17) State.reset = .next t ∧ (0x1E : RegIndex) ≠ 0 ∧
        t.faulted = true) ∧
      isClrWord 0xF ∧
      (∃ t, perform (.regWrite 0x06 1) faultedState = .next t ∧ faultedState.faulted = true) :=
  ⟨⟨_, rfl, by decide +kernel, by decide +kernel⟩, ⟨_, rfl, by decide, by decide +kernel⟩,
    by decide, ⟨_, rfl, by decide +kernel⟩⟩
theorem witness_FaultMarkRecordsEveryFault :
    (∃ t, step faultedState = .next t ∧ faultedState.faultMark = true) ∧
      (∃ t, step (State.reset.withFetchWord 32 0) = .next t ∧
        (State.reset.withFetchWord 32 0).faulted = false ∧
        (State.reset.withFetchWord 32 0).faultMark = false ∧ t.faulted = true ∧
        t.faultMark = true) :=
  ⟨⟨_, rfl, by decide +kernel⟩, ⟨_, rfl, by decide +kernel, by decide +kernel, by decide +kernel,
    by decide +kernel⟩⟩
theorem witness_ScalarRegisters :
    (3 : Nat) < 4 ∧ State.reset.faulted = false ∧ smin ≤ smin ∧ smin ≤ smax ∧ smax ≤ smax := by
  decide +kernel
/-- TinRegisters and BseqRegisters: one free place, and none. -/
theorem witness_QueueRegisters :
    State.reset.faulted = false ∧
      (withText (List.replicate 255 0)).tin.length < State.reset.cfg.tinCap ∧
      State.reset.cfg.tinCap ≤ (withText (List.replicate 256 0)).tin.length ∧
      (withBytes (List.replicate 63 0)).bseq.length < State.reset.cfg.bseqCap ∧
      State.reset.cfg.bseqCap ≤ (withBytes (List.replicate 64 0)).bseq.length ∧
      (withBytes [1, 2]).bseq = 1 :: [2] ∧ (withBytes []).bseq = [] ∧
      (State.reset.withTout [1]).tout = 1 :: [] ∧ State.reset.tout = [] := by decide +kernel
/-- ErrorRecordIsReadOnly: the ends of its index ranges. -/
theorem witness_ErrorRecordIsReadOnly :
    (3 : Nat) < 4 ∧ [(0x01 : RegIndex), 0x05, 0x10, 0x14].all (fun i => decide
      ((1 ≤ i.toNat ∧ i.toNat ≤ 5) ∨ (0x10 ≤ i.toNat ∧ i.toNat ≤ 0x14))) = true := by decide
/-- OptionRegisters: `SEP_LEN` 16 and 17, `SEPB[0]` and `SEPB[15]`. -/
theorem witness_OptionRegisters :
    State.reset.sepb.length = State.reset.cfg.sepCap ∧ State.reset.cfg.sepCap ≤ 64 ∧
      State.reset.faulted = false ∧ (16 : Word).toNat ≤ State.reset.cfg.sepCap ∧
      State.reset.cfg.sepCap < (17 : Word).toNat ∧ 0 < State.reset.cfg.sepCap ∧
      15 < State.reset.cfg.sepCap ∧ 15 < State.reset.sepb.length := by decide +kernel
theorem witness_ReservedIndicesDoNothing :
    [(0x0D : RegIndex), 0x0F, 0x15, 0x17, 0x1F, 0x3F, 0x50, 0x7F].all (fun i => decide
      ((0x0D ≤ i.toNat ∧ i.toNat ≤ 0x0F) ∨ (0x15 ≤ i.toNat ∧ i.toNat ≤ 0x17) ∨
        (0x1F ≤ i.toNat ∧ i.toNat ≤ 0x3F) ∨ (0x40 + State.reset.cfg.sepCap ≤ i.toNat))) = true := by
  decide +kernel
/-- PackLengthIsWidthBytes, UnpackOfPackRoundTrips, StrictModeOnlyRejects: `pack` that does not raise, at
both ends of the strict signed range. -/
theorem witness_pack_succeeds :
    pack (-128) .w8 .big true true = .ok [0x80] ∧ pack 127 .w8 .little true true = .ok [0x7F] ∧
      pack (-1) .w16 .big false false = .ok [0xFF, 0xFF] ∧
      inRange (-128) .w8 true ∧ inRange 127 .w8 true ∧ ¬ inRange 128 .w8 true := by decide +kernel
/-- EndiannessReversesBytes, PackOfUnpackIsIdentity. -/
theorem witness_width_bytes : [(0x80 : Byte), 0x00].length = Width.w16.bytes := by decide
/-- The four clauses of PackCommand, with the last value that is refused or the first that fits. -/
theorem witness_PackCommand :
    Width.ofCode (w8).wc = some .w8 ∧ State.reset.faulted = false ∧
      (withScalar (-1)).val.toInt < 0 ∧
      ¬ inRange (withScalar 256).val.toInt .w8 false ∧ 0 ≤ (withScalar 256).val.toInt ∧
      inRange (withScalar 255).val.toInt .w8 false ∧ ¬ inRange (withScalar 128).val.toInt .w8 true ∧
      State.reset.cfg.bseqCap < (withBytes (List.replicate 64 0)).bseq.length + Width.w8.bytes ∧
      (withBytes (List.replicate 63 0)).bseq.length + Width.w8.bytes ≤ State.reset.cfg.bseqCap := by
  decide +kernel
theorem witness_UnpackCommand :
    Width.ofCode (w16be).wc = some .w16 ∧ State.reset.faulted = false ∧
      (withBytes [0]).bseq.length < Width.w16.bytes ∧
      Width.w16.bytes ≤ (withBytes [0x80, 0x00]).bseq.length := by decide +kernel
/-- ParseJoinsTokenBytes on `0xAb`, which gives the byte 0xAB;
RawTokensAreMaximalRuns: a text of separators. -/
theorem witness_ParseJoinsTokenBytes :
    rawTokens Config.defaultWhitespace 0 [] [0x30, 0x78, 0x41, 0x62] = [(0, [0x30, 0x78, 0x41, 0x62])] ∧
      ([0x30, 0x78, 0x41, 0x62].drop 2 : List Byte).length = 2 * [(0xAB : Byte)].length ∧
      hexval 0x41 = some 0xA ∧ hexval 0x62 = some 0xB ∧
      (0xAB : Byte) = BitVec.ofNat 8 (16 * 0xA + 0xB) ∧
      ∀ c ∈ [(0x20 : Byte), 0x2D], isSep Config.defaultWhitespace c = true := by decide +kernel
theorem witness_ParseInvertsHexRendering :
    (0x0A : Byte) ∈ Config.defaultWhitespace ∧
      (∀ c ∈ Config.defaultWhitespace, notWhitespace c = false) ∧
      (∀ c ∈ [(0x3A : Byte), 0x20], isSep Config.defaultWhitespace c = true) := by decide +kernel
/-- HEXPARSE of `00`, with no free place and with one. -/
theorem witness_HexparseCommand :
    let s := (withText [0x30, 0x30]).withBseq (List.replicate 64 0)
    let s' := (withText [0x30, 0x30]).withBseq (List.replicate 63 0)
    s.faulted = false ∧ parse s.cfg.wsSet s.tin = .ok [0x00] ∧
      s.cfg.bseqCap < s.bseq.length + [(0x00 : Byte)].length ∧
      s'.faulted = false ∧ parse s'.cfg.wsSet s'.tin = .ok [0x00] ∧
      s'.bseq.length + [(0x00 : Byte)].length ≤ s'.cfg.bseqCap := by decide +kernel
/-- `ab 0` and `ab zz`: the second token is the first that fails. -/
theorem witness_ParseFaultNamesFirstBadToken :
    State.reset.faulted = false ∧ (Instr.unpackop w16be).wellFormed = true ∧
      rawTokens State.reset.cfg.wsSet 0 [] [0x61, 0x62, 0x20, 0x30] =
        [(0, [0x61, 0x62])] ++ (3, [0x30]) :: [] ∧
      rawTokens State.reset.cfg.wsSet 0 [] [0x61, 0x62, 0x20, 0x7A, 0x7A] =
        [(0, [0x61, 0x62])] ++ (3, [0x7A, 0x7A]) :: [] ∧
      parseToken 0 [0x61, 0x62] = .ok [0xAB] ∧ [(0x30 : Byte)].length % 2 = 1 ∧
      [(0x7A : Byte), 0x7A].length % 2 = 0 ∧ ishex 0x7A = false := by decide +kernel
/-- RENDER raw of one byte, with no free place and with one. -/
theorem witness_RenderCommand :
    let s := (withBytes [0x41]).withTout (List.replicate 512 0)
    let s' := (withBytes [0x41]).withTout (List.replicate 511 0)
    let o := render [0x41] w8.fmt (s.sepb.take s.sepLen.toNat) w8.upper
    s.faulted = false ∧ s.bseq = [0x41] ∧ s.cfg.toutCap < s.tout.length + o.length ∧
      s'.faulted = false ∧ s'.bseq = [0x41] ∧ s'.tout.length + o.length ≤ s'.cfg.toutCap := by
  decide +kernel
/-- PASSOP raw of hex text and of raw bytes, with no free place and with one. -/
theorem witness_PassopCommand :
    let s := (withText [0x34, 0x31]).withTout (List.replicate 512 0)
    let s' := (withText [0x41]).withTout (List.replicate 511 0)
    let o := render [0x41] w8.fmt (s.sepb.take s.sepLen.toNat) w8.upper
    s.faulted = false ∧ w8.infmt = .hexText ∧ parse s.cfg.wsSet s.tin = .ok [0x41] ∧
      s.cfg.toutCap < s.tout.length + o.length ∧
      s'.faulted = false ∧ [0x41] = s'.tin ∧ s'.tout.length + o.length ≤ s'.cfg.toutCap := by
  decide +kernel
theorem witness_DecimalText : smin ≤ smin ∧ smin ≤ smax ∧ (0 : Nat) < 1 := by decide +kernel
/-- LitCommand: a literal with its final 0x00, and a text that is none (LiteralGrammar, too). -/
theorem witness_LitCommand :
    (withText [0x37, 0x00]).faulted = false ∧ literal [0x37] 0 = .ok 7 ∧
      literal [0x2D] 0 = .error (.parseLiteralError 0 1) := by decide +kernel
/-- DecoutCommand: `0` and a newline, with one free place and with two. -/
theorem witness_DecoutCommand :
    let s := State.reset.withTout (List.replicate 511 0)
    let s' := State.reset.withTout (List.replicate 510 0)
    s.faulted = false ∧ s.cfg.toutCap < s.tout.length + (dec s.val.toInt ++ [0x0A]).length ∧
      s'.faulted = false ∧ s'.tout.length + (dec s'.val.toInt ++ [0x0A]).length ≤ s'.cfg.toutCap := by
  decide +kernel
/-- PackopCommand on `1` and `2` used twice, with three free places and with four. -/
theorem witness_PackopCommand :
    let t := (withText [0x31, 0x00, 0x32, 0x00]).withRepeat 2
    let s := t.withTout (List.replicate 509 0)
    let s' := t.withTout (List.replicate 508 0)
    let o := render (List.replicate 2 [[(0x01 : Byte)], [0x02]].flatten).flatten w8.fmt
      (t.sepb.take t.sepLen.toNat) w8.upper
    Width.ofCode w8.wc = some .w8 ∧ s.faulted = false ∧ s'.faulted = false ∧
      frame s.tin = [(0, [0x31]), (2, [0x32])] ∧ frame s'.tin = frame s.tin ∧
      List.Forall₂ (fun p b => ∃ v, literal p.2 p.1 = .ok v ∧
        pack v .w8 w8.endian w8.signed w8.strict = .ok b)
        [(0, [(0x31 : Byte)]), (2, [0x32])] [[0x01], [0x02]] ∧
      s.cfg.toutCap < s.tout.length + o.length ∧ s'.tout.length + o.length ≤ s'.cfg.toutCap := by
  refine ⟨by decide, by decide +kernel, by decide +kernel, by decide +kernel, by decide +kernel, ?_,
    by decide +kernel, by decide +kernel⟩
  exact .cons ⟨1, by decide +kernel, by decide +kernel⟩
    (.cons ⟨2, by decide +kernel, by decide +kernel⟩ .nil)
/-- `1` and then `-`, `-1` or `256`: each of the three faults of the second literal. -/
theorem witness_PackopFirstFailingLiteral :
    Width.ofCode (w8).wc = some .w8 ∧ State.reset.faulted = false ∧
      frame [0x31, 0x00, 0x2D] = [(0, [0x31])] ++ (2, [0x2D]) :: [] ∧
      frame [0x31, 0x00, 0x2D, 0x31] = [(0, [0x31])] ++ (2, [0x2D, 0x31]) :: [] ∧
      literal [0x31] 0 = .ok 1 ∧ pack 1 .w8 .little false true = .ok [0x01] ∧
      literal [0x2D] 2 = .error (.parseLiteralError 2 1) ∧ literal [0x2D, 0x31] 2 = .ok (-1) ∧
      literal [0x32, 0x35, 0x36] 2 = .ok 256 ∧ ¬ inRange 256 .w8 false ∧ inRange 255 .w8 false := by
  decide +kernel
/-- UnpackopCommand: `ff` as hex text with three free places, and as a raw byte with four. -/
theorem witness_UnpackopCommand :
    let s := (withText [0x66, 0x66]).withTout (List.replicate 509 0)
    let s' := (withText [0xFF]).withTout (List.replicate 508 0)
    Width.ofCode w8.wc = some .w8 ∧ s.faulted = false ∧ w8.infmt = .hexText ∧
      parse s.cfg.wsSet s.tin = .ok [0xFF] ∧
      s.cfg.toutCap < s.tout.length + (dec 255 ++ [0x0A]).length ∧
      s'.faulted = false ∧ [0xFF] = s'.tin ∧
      s'.tout.length + (dec 255 ++ [0x0A]).length ≤ s'.cfg.toutCap := by decide +kernel
/-- SwapopCommand: no literal; `-1`, `256` and `255` at 8 bits. -/
theorem witness_SwapopCommand :
    Width.ofCode (w8).wc = some .w8 ∧ State.reset.faulted = false ∧
      literal [] 0 = .error (.parseLiteralError 0 0) ∧ literal [0x2D, 0x31] 0 = .ok (-1) ∧
      literal [0x32, 0x35, 0x36] 0 = .ok 256 ∧ ¬ inRange 256 .w8 false ∧
      literal [0x32, 0x35, 0x35] 0 = .ok 255 ∧ inRange 255 .w8 false := by decide +kernel
/-- CommandsWriteOnlyTheirRow: a command that succeeds and one that faults. -/
theorem witness_CommandsWriteOnlyTheirRow :
    (∃ t, exec (.decout w8) State.reset = .next t ∧ t.faulted = false) ∧
      (∃ t, exec (.unpack w8) State.reset = .next t ∧ t.faulted = true) :=
  ⟨⟨_, rfl, by decide +kernel⟩, ⟨_, rfl, by decide +kernel⟩⟩
/-- OperationsReadOnlyTheirInputs: two states that differ in `VAL`, `BSEQ` and `MAXCNT`. -/
theorem witness_OperationsReadOnlyTheirInputs :
    let s := withText [0x31, 0x00]
    let s' := ((s.withVal 7).withBseq [1]).withMaxCnt 9
    s.faulted = false ∧ s'.faulted = false ∧ s.cfg = s'.cfg ∧ s.tin = s'.tin ∧ s.tout = s'.tout ∧
      s.repeatCnt = s'.repeatCnt ∧ s.sepb = s'.sepb ∧ s.sepLen = s'.sepLen ∧ s ≠ s' ∧
      (∃ t, exec (.packop hexOut) s = .next t) ∧ ∃ t', exec (.packop hexOut) s' = .next t' :=
  ⟨by decide +kernel, by decide +kernel, by decide +kernel, by decide +kernel, by decide +kernel,
    by decide +kernel, by decide +kernel, by decide +kernel, by decide +kernel, ⟨_, rfl⟩, ⟨_, rfl⟩⟩
/-- PackopEqualsPrimitives on the texts `1` and `2`. -/
theorem witness_PackopEqualsPrimitives :
    State.reset.faulted = false ∧ State.reset.tin = [] ∧ State.reset.bseq = [] ∧
      State.reset.repeatCnt.toNat ≤ 1 ∧
      (∀ x ∈ [[(0x31 : Byte)], [0x32]], (0x00 : Byte) ∉ x) ∧
      (Instr.packop hexOut).wellFormed = true ∧
      (after (runEvents (tinStatement [0x31, 0x00, 0x32, 0x00] ++
        [commandEvent (encode (.packop hexOut))]) State.reset)).map State.faulted = some false ∧
      (after (runEvents (tinStatement [0x31] ++ [commandEvent (encode (.lit hexOut)),
          commandEvent (encode (.pack hexOut))] ++
        (tinStatement [0x32] ++ [commandEvent (encode (.lit hexOut)),
          commandEvent (encode (.pack hexOut)), commandEvent (encode (.render hexOut))]))
        State.reset)).map State.faulted = some false := by decide +kernel
/-- SwapopAndPassopEqualPrimitives on the text `12`, a literal and a byte of hex text. -/
theorem witness_SwapopAndPassopEqualPrimitives :
    let s := withText [0x31, 0x32]
    s.faulted = false ∧ s.bseq = [] ∧ (Instr.swapop hexOut).wellFormed = true ∧
      hexOut.infmt = .hexText ∧
      [[commandEvent (encode (.swapop hexOut))],
       [commandEvent (encode (.lit hexOut)),
        commandEvent (encode (.pack { hexOut with endian := .big })),
        commandEvent (encode (.brev hexOut)), commandEvent (encode (.render hexOut))],
       [commandEvent (encode (.passop hexOut))],
       [commandEvent (encode (.hexparse hexOut)), commandEvent (encode (.render hexOut))]].all
        (fun es => (after (runEvents es s)).map State.faulted == some false) = true := by
  decide +kernel

end Sys2Proof.Tests
end

/-! ## The state, the window and the frames of the commands

The facts about words, registers, transactions and commands that the statements of 10_state need, and then the
statements themselves. -/

namespace Sys2Proof

/-! ### Command words: decoding drops no bit -/

@[simp] theorem Format.code_ofCode (c : BitVec 2) : (Format.ofCode c).code = c := by
  revert c
  decide

@[simp] theorem Endian.bit_ofBit (b : Bool) : (Endian.ofBit b).bit = b := by
  cases b <;> rfl

@[simp] theorem InFormat.bit_ofBit (b : Bool) : (InFormat.ofBit b).bit = b := by
  cases b <;> rfl

/-- The fields of a word, put together again, are its bits 14:4 (R82). -/
theorem Fields.toBits_ofWord (d : Word) : (Fields.ofWord d).toBits = d.extractLsb' 4 11 := by
  apply BitVec.eq_of_getLsbD_eq
  intro i hi
  simp only [Fields.toBits, Fields.ofWord, Format.code_ofCode, Endian.bit_ofBit, InFormat.bit_ofBit,
    BitVec.getLsbD_append, BitVec.getLsbD_extractLsb']
  interval_cases i <;> simp

/-- A word that decodes has reserved bits zero and the opcode of its command (R81). -/
theorem decode_reserved_opcode {d : Word} {i : Instr} (h : decode d = .ok i) :
    d.extractLsb' 15 17 = 0 ∧ d.extractLsb' 0 4 = i.opcode := by
  unfold decode at h
  split at h
  · cases h
  · rename_i hres
    refine ⟨by simpa using hres, ?_⟩
    simp only [withValidWidth] at h
    split at h <;> rename_i hop <;> (try split at h) <;> cases h <;> exact BitVec.eq_of_toNat_eq hop

/-- A word that decodes is the word of its command (R93): decoding drops no bit. -/
theorem encode_of_decode {d : Word} {i : Instr} (h : decode d = .ok i) : encode i = d := by
  obtain ⟨hres, hop⟩ := decode_reserved_opcode h
  rw [encode, encodeWord, Machine.decode_fields h, Fields.toBits_ofWord, ← hop, ← BitVec.ofNat_eq_ofNat,
    ← hres]
  apply BitVec.eq_of_getLsbD_eq
  intro b hb
  simp only [BitVec.getLsbD_append, BitVec.getLsbD_extractLsb']
  rcases (by omega : b < 4 ∨ (4 ≤ b ∧ b < 15) ∨ 15 ≤ b) with h1 | h1 | h1
  · simp [h1]
  · simp [show ¬ b < 4 by omega, show b - 4 < 11 by omega, show 4 + (b - 4) = b by omega]
  · simp [show ¬ b < 4 by omega, show ¬ b - 4 < 11 by omega, show b - 4 - 11 < 17 by omega,
      show 15 + (b - 4 - 11) = b by omega]

end Sys2Proof

namespace Sys2Proof.Machine

/-! ### What a command may raise -/

/-- `x` raises no fault of a register write, and what it gives satisfies `P`. -/
def RaisesAsCommand {α : Type} (x : Except CoreFault α) (P : α → Prop) : Prop :=
  (∀ a, x = .ok a → P a) ∧ ∀ i, x ≠ .error (.capacityWrite i)

namespace RaisesAsCommand

variable {α β : Type} {P : α → Prop}

theorem ok {a : α} (h : P a) : RaisesAsCommand (.ok a) P :=
  ⟨fun _ ha => Except.ok.inj ha ▸ h, fun _ => by simp⟩

theorem error {k : CoreFault} (h : ∀ i, k ≠ .capacityWrite i) :
    RaisesAsCommand (.error k : Except CoreFault α) P :=
  ⟨nofun, fun i hk => h i (Except.error.inj hk)⟩

theorem bind {x : Except CoreFault β} {g : β → Except CoreFault α} {Q : β → Prop}
    (hx : RaisesAsCommand x Q) (hg : ∀ b, RaisesAsCommand (g b) P) :
    RaisesAsCommand (x >>= g) P := by
  refine ⟨fun a ha => ?_, fun i hi => ?_⟩
  · obtain ⟨b, -, hb⟩ := except_bind_ok_iff.mp ha
    exact (hg b).1 a hb
  · rcases except_bind_error_iff.mp hi with h | ⟨b, -, hb⟩
    · exact hx.2 i h
    · exact (hg b).2 i hb

/-- A part whose faults are all known not to be those of a register write. -/
theorem of_error {x : Except CoreFault α} (h : ∀ k, x = .error k → ∀ i, k ≠ .capacityWrite i) :
    RaisesAsCommand x fun _ => True :=
  ⟨fun _ _ => trivial, fun i hi => h _ hi i rfl⟩

theorem widthOf (f : Fields) : RaisesAsCommand (widthOf f) fun _ => True :=
  of_error fun k hk i => by
    obtain ⟨-, rfl⟩ := widthOf_error_iff.mp hk
    simp

theorem roomFor (len cap needed : Nat) : RaisesAsCommand (roomFor len cap needed) fun _ => True :=
  of_error fun k hk i => by
    obtain ⟨-, rfl⟩ := roomFor_error_iff.mp hk
    simp

theorem pack (v : Int) (w : Width) (e : Endian) (sg st : Bool) :
    RaisesAsCommand (pack v w e sg st) fun _ => True :=
  of_error fun k hk i => by
    obtain ⟨-, ⟨-, -, rfl⟩ | ⟨-, rfl⟩⟩ := packCheck_error (pack_error_iff.mp hk) <;> simp

theorem literal (s : List Byte) (pos : Nat) : RaisesAsCommand (literal s pos) fun _ => True :=
  of_error fun k hk i => by
    rw [literal_error hk]
    simp

theorem parseTokens (ts : List (Nat × List Byte)) :
    RaisesAsCommand (parseTokens ts) fun _ => True := by
  induction ts with
  | nil => exact ok trivial
  | cons p ts ih =>
    refine of_error fun k hk i => ?_
    rcases parseTokens_cons_error_iff.mp hk with h | ⟨-, -, h⟩
    · obtain ⟨-, rfl⟩ | ⟨-, -, rfl⟩ := parseToken_error h <;> simp
    · exact fun hi => ih.2 i (hi ▸ h)

theorem packLiterals (w : Width) (f : Fields) (ts : List (Nat × List Byte)) :
    RaisesAsCommand (packLiterals w f ts) fun _ => True := by
  induction ts with
  | nil => exact ok trivial
  | cons p ts ih =>
    exact (literal p.2 p.1).bind fun v => (pack v w f.endian f.signed f.strict).bind fun b =>
      ih.bind fun bs => ok trivial

theorem inputBytes (f : Fields) (s : State) : RaisesAsCommand (inputBytes f s) fun _ => True := by
  unfold Machine.inputBytes
  cases f.infmt with
  | hexText => exact parseTokens _
  | rawBytes => exact ok trivial

theorem appendRendered (s : State) (f : Fields) (p : List Byte) (k : Nat) :
    RaisesAsCommand (appendRendered s f p k) fun _ => True :=
  (roomFor _ _ _).bind fun _ => ok trivial

end RaisesAsCommand

/-- Every command but CLR ends by `runCommand`, on a body that leaves the error record alone when it succeeds and
never raises the fault of a register write. -/
theorem exec_eq_runCommand {i : Instr} (hi : ¬ ∃ f, i = .clr f) (s : State) :
    ∃ r, exec i s = runCommand i s r ∧ RaisesAsCommand r fun t => t.er = s.er := by
  cases i with
  | clr f => exact absurd ⟨f, rfl⟩ hi
  | pack f =>
    exact ⟨_, rfl, (RaisesAsCommand.widthOf f).bind fun w => (RaisesAsCommand.pack ..).bind fun b =>
      (RaisesAsCommand.roomFor ..).bind fun _ => .ok rfl⟩
  | unpack f =>
    refine ⟨_, rfl, (RaisesAsCommand.widthOf f).bind fun w => ?_⟩
    split
    · exact .error (by simp)
    · exact .ok rfl
  | hexparse f =>
    exact ⟨_, rfl, (RaisesAsCommand.parseTokens _).bind fun b =>
      (RaisesAsCommand.roomFor ..).bind fun _ => .ok rfl⟩
  | render f => exact ⟨_, rfl, (RaisesAsCommand.appendRendered ..).bind fun o => .ok rfl⟩
  | lit f => exact ⟨_, rfl, (RaisesAsCommand.literal ..).bind fun v => .ok rfl⟩
  | decout f => exact ⟨_, rfl, (RaisesAsCommand.roomFor ..).bind fun _ => .ok rfl⟩
  | brev f => exact ⟨.ok (s.withBseq s.bseq.reverse), rfl, .ok rfl⟩
  | packop f =>
    exact ⟨_, rfl, (RaisesAsCommand.widthOf f).bind fun w => (RaisesAsCommand.packLiterals ..).bind
      fun p => (RaisesAsCommand.appendRendered ..).bind fun o => .ok rfl⟩
  | unpackop f =>
    exact ⟨_, rfl, (RaisesAsCommand.widthOf f).bind fun w => (RaisesAsCommand.inputBytes f s).bind
      fun b => (RaisesAsCommand.roomFor ..).bind fun _ => .ok rfl⟩
  | swapop f =>
    exact ⟨_, rfl, (RaisesAsCommand.widthOf f).bind fun w => (RaisesAsCommand.literal ..).bind
      fun v => (RaisesAsCommand.pack ..).bind fun p =>
        (RaisesAsCommand.appendRendered ..).bind fun o => .ok rfl⟩
  | passop f =>
    exact ⟨_, rfl, (RaisesAsCommand.inputBytes f s).bind fun b =>
      (RaisesAsCommand.appendRendered ..).bind fun o => .ok rfl⟩

/-- A fault other than that of a register write records the command word (R31). -/
theorem CoreFault.ecmd_of_command {k : CoreFault} (h : ∀ i, k ≠ .capacityWrite i) (w : Word) :
    k.ecmd w = w := by
  cases k with
  | capacityWrite i => exact absurd rfl (h i)
  | _ => rfl

/-- What a command does to the error record: CLR clears it; any other leaves it alone or, when not FAULTED,
takes a fault that records the command word. -/
theorem exec_record_cases {i : Instr} {s t : State} (h : exec i s = .next t) :
    ((∃ f, i = .clr f) ∧ t = s.clear) ∨ (¬ (∃ f, i = .clr f) ∧ (t.er = s.er ∨
      (s.faulted = false ∧ ∃ k : CoreFault, t = s.raise (encode i) k ∧
        k.ecmd (encode i) = encode i))) := by
  by_cases hi : ∃ f, i = .clr f
  · obtain ⟨f, rfl⟩ := hi
    cases h
    exact .inl ⟨⟨f, rfl⟩, rfl⟩
  · obtain ⟨r, hr, hkeep, hraise⟩ := exec_eq_runCommand hi s
    refine .inr ⟨hi, ?_⟩
    rcases runCommand_cases (hr ▸ h) with ⟨-, rfl⟩ | ⟨-, hok⟩ | ⟨hf, k, hk, rfl⟩
    · exact .inl rfl
    · exact .inl (hkeep t hok)
    · exact .inr ⟨hf, k, rfl, CoreFault.ecmd_of_command (fun j hj => hraise j (hj ▸ hk)) _⟩

/-- While FAULTED a command other than CLR does nothing (R45). -/
theorem exec_faulted {i : Instr} {s : State} (hi : ¬ ∃ f, i = .clr f) (h : s.faulted = true) :
    exec i s = .next s := by
  obtain ⟨r, hr, -⟩ := exec_eq_runCommand hi s
  rw [hr, runCommand_faulted r h]

/-! ### Transactions -/

/-- The two events that clear the CORE: reset, and a write of a CLR word to `CMD` (R45, R181, R251). -/
abbrev HostEvent.Clears (e : HostEvent) : Prop := e = .reset ∨ ∃ d, e = .regWrite 0 d ∧ isClrWord d

theorem not_clears_of_index_ne {i : RegIndex} (hi : i ≠ 0) (d : Word) :
    ¬ (HostEvent.regWrite i d).Clears := by
  rintro (h | ⟨d', h, -⟩)
  · cases h
  · cases h
    exact hi rfl

theorem decode_clr_fields {d : Word} {f : Fields} (h : decode d = .ok (.clr f)) : isClrWord d := by
  have hf : f = Fields.ofWord d := decode_fields h
  exact (decode_clr_iff d).mpr (hf ▸ h)

/-- A word that is no CLR word decodes to no CLR. -/
theorem not_clr_of_decode {d : Word} {i : Instr} (hd : ¬ isClrWord d) (h : decode d = .ok i) :
    ¬ ∃ f, i = .clr f := by
  rintro ⟨f, rfl⟩
  exact hd (decode_clr_fields h)

theorem writeCmd_of_decode {d : Word} {i : Instr} (h : decode d = .ok i) (s : State) :
    writeCmd d s = exec i s := by
  rw [writeCmd, h]

theorem writeCmd_of_error {d : Word} {e : DecodeError} (h : decode d = .error e) (s : State) :
    writeCmd d s = .next (gated s (s.raise d (decodeFault e))) := by
  rw [writeCmd, h]

theorem writeCmd_clr {d : Word} (h : isClrWord d) (s : State) : writeCmd d s = .next s.clear :=
  writeCmd_of_decode ((decode_clr_iff d).mp h) s

/-- While FAULTED a command word other than CLR is ignored, whether it decodes or not (R45). -/
theorem writeCmd_faulted {d : Word} {s : State} (hd : ¬ isClrWord d) (h : s.faulted = true) :
    writeCmd d s = .next s := by
  cases hdec : decode d with
  | ok i => rw [writeCmd_of_decode hdec, exec_faulted (not_clr_of_decode hd hdec) h]
  | error e => rw [writeCmd_of_error hdec, gated_of_faulted _ h]

/-- A write of a word other than CLR to `CMD` leaves the error record alone or takes a fault that records the
word (R31). -/
theorem writeCmd_record_cases {d : Word} {s t : State} (hd : ¬ isClrWord d)
    (h : writeCmd d s = .next t) :
    t.er = s.er ∨ (s.faulted = false ∧ ∃ k w, t = s.raise w k ∧ k.ecmd w = d) := by
  cases hdec : decode d with
  | ok i =>
    rw [writeCmd_of_decode hdec] at h
    rcases exec_record_cases h with ⟨hi, -⟩ | ⟨-, her | ⟨hf, k, hk, hw⟩⟩
    · exact absurd hi (not_clr_of_decode hd hdec)
    · exact .inl her
    · exact .inr ⟨hf, k, encode i, hk, hw.trans (encode_of_decode hdec)⟩
  | error e =>
    rw [writeCmd_of_error hdec] at h
    cases h
    rcases gated_cases s (s.raise d (decodeFault e)) with ⟨-, hg⟩ | ⟨hf, hg⟩
    · exact .inl (by rw [hg])
    · exact .inr ⟨hf, decodeFault e, d, hg, by cases e <;> rfl⟩

/-- A write to a register other than `CMD` leaves the error record alone or takes its capacity fault. -/
theorem storeReg_record_cases (i : RegIndex) (d : Word) (s : State) (r : Reg) :
    (storeReg i d s r).er = s.er ∨ storeReg i d s r = s.raise 0 (.capacityWrite i) := by
  rcases storeReg_cases i d s r with h | h | h | h | ⟨v, h⟩ | ⟨-, h⟩ | ⟨-, h⟩ | ⟨-, h⟩ | ⟨k, h⟩
  case inr.inl => exact .inr h
  all_goals exact .inl (by simp [h])

@[simp] theorem readReg_er (i : RegIndex) (s : State) : (readReg i s).er = s.er := by
  obtain ⟨v, h | h | h⟩ := readReg_cases i s <;> rw [h] <;> rfl

/-- What a transaction can do to the error record: CLR and reset clear the CORE; any other leaves the record alone
or is a write that takes a fault, whose `ECMD` is the word written to `CMD`, and 0 for another register (R31). -/
theorem perform_record_cases {e : HostEvent} {s t : State} (h : perform e s = .next t) :
    (e.Clears ∧ t = s.clear) ∨ (¬ e.Clears ∧ (t.er = s.er ∨
      (s.faulted = false ∧ ∃ i d k w, e = .regWrite i d ∧ t = s.raise w k ∧
        k.ecmd w = if i = 0 then d else 0))) := by
  cases e with
  | reset =>
    cases h
    exact .inl ⟨.inl rfl, rfl⟩
  | regRead i =>
    cases h
    exact .inr ⟨by simp, .inl (readReg_er i s)⟩
  | regWrite i d =>
    by_cases hi : i = 0
    · subst hi
      rw [perform_cmd] at h
      by_cases hd : isClrWord d
      · rw [writeCmd_clr hd] at h
        cases h
        exact .inl ⟨.inr ⟨d, rfl, hd⟩, rfl⟩
      · refine .inr ⟨by simpa using hd, ?_⟩
        rcases writeCmd_record_cases hd h with her | ⟨hf, k, w, hk, hw⟩
        · exact .inl her
        · exact .inr ⟨hf, 0, d, k, w, rfl, hk, by simpa using hw⟩
    · rw [perform_regWrite d s hi] at h
      cases h
      refine .inr ⟨not_clears_of_index_ne hi d, ?_⟩
      rcases gated_cases s (storeReg i d s (Reg.ofIndex s.cfg i)) with ⟨-, hg⟩ | ⟨hf, hg⟩
      · exact .inl (by rw [hg])
      · rw [hg]
        rcases storeReg_record_cases i d s (Reg.ofIndex s.cfg i) with her | hk
        · exact .inl her
        · exact .inr ⟨hf, i, d, _, 0, rfl, hk, (if_neg hi).symm⟩

theorem State.faulted_congr {s t : State} (h : t.er = s.er) : t.faulted = s.faulted := by
  simp [State.faulted, h]

/-! ### The register map -/

/-- Only index 1 selects `STATUS` (R28). -/
theorem reg_ofIndex_eq_status {cfg : Config} {i : RegIndex} (h : Reg.ofIndex cfg i = .status) :
    i = 1 := by
  unfold Reg.ofIndex at h
  split at h
  case h_2 hi => exact BitVec.eq_of_toNat_eq hi
  all_goals (try split at h) <;> cases h

/-- The indices that no register of the table R28 has. -/
def Unlisted (n : Nat) : Prop :=
  (0x0D ≤ n ∧ n ≤ 0x0F) ∨ (0x15 ≤ n ∧ n ≤ 0x17) ∨ 0x1F ≤ n

/-- An index outside the table selects a byte of the separator or nothing (R43, R44). -/
theorem reg_ofIndex_unlisted {i : RegIndex} (cfg : Config) (h : Unlisted i.toNat) :
    Reg.ofIndex cfg i =
      if 0x40 ≤ i.toNat ∧ i.toNat - 0x40 < cfg.sepCap then .sepByte (i.toNat - 0x40)
      else .reserved := by
  unfold Unlisted at h
  unfold Reg.ofIndex
  split
  case h_26 => rfl
  all_goals omega

/-- The indices of class RES (R44). -/
theorem reg_ofIndex_reserved {cfg : Config} {i : RegIndex}
    (h : (0x0D ≤ i.toNat ∧ i.toNat ≤ 0x0F) ∨ (0x15 ≤ i.toNat ∧ i.toNat ≤ 0x17) ∨
      (0x1F ≤ i.toNat ∧ i.toNat ≤ 0x3F) ∨ 0x40 + cfg.sepCap ≤ i.toNat) :
    Reg.ofIndex cfg i = .reserved := by
  rw [reg_ofIndex_unlisted cfg (by unfold Unlisted; omega), if_neg (by omega)]

/-- The index of `SEPB[k]` (R43). -/
theorem reg_ofIndex_sepByte {cfg : Config} {k : Nat} (hk : k < cfg.sepCap) (hcap : cfg.sepCap ≤ 64) :
    Reg.ofIndex cfg (BitVec.ofNat 7 (0x40 + k)) = .sepByte k := by
  have hn : (BitVec.ofNat 7 (0x40 + k)).toNat = 0x40 + k := by
    rw [BitVec.toNat_ofNat]
    omega
  rw [reg_ofIndex_unlisted cfg (by unfold Unlisted; omega), hn, if_pos (by omega)]
  simp

theorem reg_ofIndex_valWord (cfg : Config) {j : Nat} (hj : j < 4) :
    Reg.ofIndex cfg (BitVec.ofNat 7 (0x08 + j)) = .valWord j := by
  interval_cases j <;> rfl

theorem reg_ofIndex_errvalWord (cfg : Config) {j : Nat} (hj : j < 4) :
    Reg.ofIndex cfg (BitVec.ofNat 7 (0x10 + j)) = .errvalWord j := by
  interval_cases j <;> rfl

/-! ### Reads and writes of one register -/

@[simp] theorem gated_self (s : State) : gated s s = s := by
  simp [gated]

/-- A read of an index that selects the register `r`. -/
theorem perform_regRead_of_reg {i : RegIndex} {s : State} {r : Reg} (hr : Reg.ofIndex s.cfg i = r) :
    perform (.regRead i) s = .next ((afterRead s r).reply (readValue s r)) := by
  subst hr
  rfl

/-- A write, behind the gate, to an index that selects the register `r`, other than `CMD`. -/
theorem perform_regWrite_of_reg {i : RegIndex} {s : State} {r : Reg} (d : Word)
    (hr : Reg.ofIndex s.cfg i = r) (hcmd : r ≠ .cmd) :
    perform (.regWrite i d) s = .next (gated s (storeReg i d s r)) := by
  subst hr
  refine perform_regWrite d s ?_
  rintro rfl
  exact hcmd (reg_ofIndex_zero _)

/-- The registers whose write has no effect (R27, R44). -/
theorem perform_regWrite_ignored {i : RegIndex} {s : State} {r : Reg} {d : Word}
    (hr : Reg.ofIndex s.cfg i = r) (hcmd : r ≠ .cmd) (hs : storeReg i d s r = s) :
    perform (.regWrite i d) s = .next s := by
  rw [perform_regWrite_of_reg d hr hcmd, hs, gated_self]

/-- A write to a register other than `CMD` while not FAULTED. -/
theorem perform_regWrite_stored {i : RegIndex} {s : State} {r : Reg} (d : Word)
    (hf : s.faulted = false) (hr : Reg.ofIndex s.cfg i = r) (hcmd : r ≠ .cmd) :
    perform (.regWrite i d) s = .next (storeReg i d s r) := by
  rw [perform_regWrite_of_reg d hr hcmd, gated_of_not_faulted _ hf]

/-- `ERR` decides nothing that a read other than that of `STATUS` returns or removes (R45). -/
theorem readReg_err_irrelevant {i : RegIndex} {s : State} (hi : i ≠ 1) :
    readReg i { s with er := { s.er with err := 0 } } =
      { readReg i s with er := { s.er with err := 0 } } := by
  have hr : Reg.ofIndex s.cfg i ≠ .status := fun h => hi (reg_ofIndex_eq_status h)
  unfold readReg
  cases hreg : Reg.ofIndex s.cfg i with
  | status => exact absurd hreg hr
  | _ => rfl

/-! ### The words of a scalar -/

/-- The bits of a scalar with word `j` replaced (R36). -/
theorem getLsbD_setScalarWord (v : Scalar) (j : Nat) (d : Word) {b : Nat} (hb : b < 129) :
    (setScalarWord v j d).getLsbD b =
      if 32 * j ≤ b ∧ b < 32 * j + 32 then d.getLsbD (b - 32 * j) else v.getLsbD b := by
  simp only [setScalarWord, BitVec.getLsbD_or, BitVec.getLsbD_and, BitVec.getLsbD_not,
    BitVec.getLsbD_shiftLeft, BitVec.getLsbD_setWidth, BitVec.getLsbD_allOnes]
  by_cases h1 : b < 32 * j
  · simp [hb, h1, Nat.not_le.mpr h1]
  · by_cases h2 : b < 32 * j + 32
    · simp [hb, h1, h2, Nat.not_lt.mp h1, show b - 32 * j < 32 by omega,
        show b - 32 * j < 129 by omega]
    · simp [hb, h1, h2, show ¬ b - 32 * j < 32 by omega,
        BitVec.getLsbD_of_ge d (b - 32 * j) (by omega)]

/-- Word `j` of a scalar is what was written there (R36). -/
theorem extractLsb'_setScalarWord (v : Scalar) {j : Nat} (d : Word) (hj : j < 4) :
    (setScalarWord v j d).extractLsb' (32 * j) 32 = d := by
  apply BitVec.eq_of_getLsbD_eq
  intro b hb
  rw [BitVec.getLsbD_extractLsb', getLsbD_setScalarWord v j d (by omega), if_pos (by omega)]
  simp [hb]

/-- The bits of a scalar with bit 128 replaced (R37). -/
theorem getLsbD_setScalarTop (v : Scalar) (d : Word) {b : Nat} (hb : b < 129) :
    (setScalarTop v d).getLsbD b = if b = 128 then d.getLsbD 0 else v.getLsbD b := by
  rw [setScalarTop, BitVec.getLsbD_append, BitVec.getLsbD_extractLsb', BitVec.getLsbD_extractLsb']
  by_cases h : b = 128
  · simp [h]
  · simp [h, show b < 128 by omega]

/-- The scalar that five words spell, the fifth by its bit 0 alone (R37). -/
def scalarOfWords (w0 w1 w2 w3 w4 : Word) : Scalar :=
  w4.extractLsb' 0 1 ++ (w3 ++ (w2 ++ (w1 ++ w0)))

/-- Writing the five words one after another leaves nothing of the scalar that was there (R37). -/
theorem setScalar_all_words (v : Scalar) (w0 w1 w2 w3 w4 : Word) :
    setScalarTop (setScalarWord (setScalarWord (setScalarWord (setScalarWord v 0 w0) 1 w1) 2 w2) 3 w3)
      w4 = scalarOfWords w0 w1 w2 w3 w4 := by
  apply BitVec.eq_of_getLsbD_eq
  intro b hb
  rw [getLsbD_setScalarTop _ _ hb]
  simp only [getLsbD_setScalarWord _ _ _ hb, scalarOfWords, BitVec.getLsbD_append,
    BitVec.getLsbD_extractLsb']
  rcases (by omega : b = 128 ∨ b < 128) with rfl | h
  · simp
  · grind

/-- The number of two patterns end to end. -/
theorem toNat_append_eq_add {m n : Nat} (x : BitVec m) (y : BitVec n) :
    (x ++ y).toNat = x.toNat * 2 ^ n + y.toNat := by
  rw [BitVec.toNat_append, ← Nat.shiftLeft_add_eq_or_of_lt y.isLt, Nat.shiftLeft_eq]

/-- The number that five words spell (R37). -/
theorem scalarOfWords_eq_ofNat (w0 w1 w2 w3 w4 : Word) :
    scalarOfWords w0 w1 w2 w3 w4 = BitVec.ofNat 129 ((w4.toNat % 2) * 2 ^ 128 + w3.toNat * 2 ^ 96 +
      w2.toNat * 2 ^ 64 + w1.toNat * 2 ^ 32 + w0.toNat) := by
  apply BitVec.eq_of_toNat_eq
  simp only [scalarOfWords, toNat_append_eq_add, BitVec.extractLsb'_toNat, BitVec.toNat_ofNat]
  omega

/-- A pattern of 160 bits and one of 129 of the same integer agree on the bits they share. -/
theorem setWidth_ofInt_scalar (v : Int) : (BitVec.ofInt 160 v).setWidth 129 = BitVec.ofInt 129 v := by
  apply BitVec.eq_of_toNat_eq
  rw [BitVec.toNat_setWidth, BitVec.toNat_ofInt, BitVec.toNat_ofInt]
  omega

/-- The five words of `v mod 2^160` spell the pattern of `v` (R37). -/
theorem scalarOfWords_extract (v : Int) :
    scalarOfWords ((BitVec.ofInt 160 v).extractLsb' (32 * 0) 32)
      ((BitVec.ofInt 160 v).extractLsb' (32 * 1) 32) ((BitVec.ofInt 160 v).extractLsb' (32 * 2) 32)
      ((BitVec.ofInt 160 v).extractLsb' (32 * 3) 32) ((BitVec.ofInt 160 v).extractLsb' (32 * 4) 32) =
      BitVec.ofInt 129 v := by
  rw [← setWidth_ofInt_scalar]
  apply BitVec.eq_of_getLsbD_eq
  intro b hb
  simp only [scalarOfWords, BitVec.getLsbD_append, BitVec.getLsbD_extractLsb', BitVec.getLsbD_setWidth]
  grind

/-- An integer of the scalar domain is the value of its 129-bit pattern (R21). -/
theorem toInt_ofInt_scalar {v : Int} (h1 : smin ≤ v) (h2 : v ≤ smax) :
    (BitVec.ofInt 129 v).toInt = v := by
  unfold smin at h1
  unfold smax at h2
  exact BitVec.toInt_ofInt_eq_self (by omega) (by omega) (by omega)

/-- A write to one of `VAL0` to `VAL3` while not FAULTED, whatever `VAL` is (R36). -/
theorem perform_write_valWord {s : State} (hf : s.faulted = false) {j : Nat} (hj : j < 4) (v : Scalar)
    (d : Word) : perform (.regWrite (BitVec.ofNat 7 (0x08 + j)) d) (s.withVal v) =
      .next (s.withVal (setScalarWord v j d)) :=
  perform_regWrite_stored (s := s.withVal v) d hf (reg_ofIndex_valWord s.cfg hj) (by simp)

/-- A write to `VAL4` while not FAULTED, whatever `VAL` is (R37). -/
theorem perform_write_valTop {s : State} (hf : s.faulted = false) (v : Scalar) (d : Word) :
    perform (.regWrite 0x0C d) (s.withVal v) = .next (s.withVal (setScalarTop v d)) :=
  perform_regWrite_stored (s := s.withVal v) (r := .valTop) d hf rfl (by simp)

theorem runEvents_cons_of_next {e : HostEvent} {s t : State} (h : perform e s = .next t)
    (es : List HostEvent) : runEvents (e :: es) s = runEvents es t := by
  rw [runEvents, h]

/-- Writes of the five words of `VAL`, in order (R37). -/
theorem runEvents_scalar_words {s : State} (hf : s.faulted = false) (w0 w1 w2 w3 w4 : Word) :
    runEvents [.regWrite 0x08 w0, .regWrite 0x09 w1, .regWrite 0x0A w2, .regWrite 0x0B w3,
      .regWrite 0x0C w4] s = .next (s.withVal (scalarOfWords w0 w1 w2 w3 w4)) := by
  rw [← setScalar_all_words s.val]
  calc runEvents _ (s.withVal s.val)
    _ = runEvents _ _ := runEvents_cons_of_next (perform_write_valWord hf (j := 0) (by omega) _ w0) _
    _ = runEvents _ _ := runEvents_cons_of_next (perform_write_valWord hf (j := 1) (by omega) _ w1) _
    _ = runEvents _ _ := runEvents_cons_of_next (perform_write_valWord hf (j := 2) (by omega) _ w2) _
    _ = runEvents _ _ := runEvents_cons_of_next (perform_write_valWord hf (j := 3) (by omega) _ w3) _
    _ = .next _ := runEvents_cons_of_next (perform_write_valTop hf _ w4) _

/-! ### Frames of the commands -/

/-- The frame of a command whose success leaves the record alone and gives `Q`: after a fault only the record and
the mark differ (R227), and otherwise `Q` holds. -/
theorem CommandEnds.frame {i : Instr} {s t : State} {P Q : Prop} (h : CommandEnds i s t P)
    (hP : P → t.er = s.er ∧ Q) :
    if t.faulted = true then t = { s with er := t.er, faultMark := t.faultMark } else Q := by
  rcases h with ⟨hf, rfl⟩ | ⟨-, k, rfl⟩ | ⟨hf, hp⟩
  · rw [if_pos hf]
  · rw [if_pos (State.raise_faulted ..)]
    rfl
  · obtain ⟨her, hq⟩ := hP hp
    rwa [if_neg (by simp [State.faulted_congr her, hf])]

/-! ### What an operation command reads -/

/-- How an operation command ends with the new `TOUT`, or the fault, that its computation `x` gives. -/
def endOperation (i : Instr) (s : State) (x : Except CoreFault (List Byte)) :
    Host.Outcome State Fault Refusal :=
  runCommand i s (x >>= fun o => .ok ((s.withTout o).withTin []))

theorem exec_packop_eq (f : Fields) (s : State) :
    exec (.packop f) s = endOperation (.packop f) s (do
      let w ← widthOf f
      let p ← packLiterals w f (frame s.tin)
      appendRendered s f p s.repetitions) := by
  simp only [endOperation, bind_assoc]
  rfl

theorem exec_unpackop_eq (f : Fields) (s : State) :
    exec (.unpackop f) s = endOperation (.unpackop f) s (do
      let w ← widthOf f
      let b ← inputBytes f s
      roomFor s.tout.length s.cfg.toutCap (unpackLines s w f b).length
      return s.tout ++ unpackLines s w f b) := by
  simp only [endOperation, bind_assoc]
  rfl

theorem exec_swapop_eq (f : Fields) (s : State) :
    exec (.swapop f) s = endOperation (.swapop f) s (do
      let w ← widthOf f
      let v ← literal (dropTerminator s.tin) 0
      let p ← pack v w .big f.signed f.strict
      appendRendered s f p.reverse 1) := by
  simp only [endOperation, bind_assoc]
  rfl

theorem exec_passop_eq (f : Fields) (s : State) :
    exec (.passop f) s = endOperation (.passop f) s (do
      let b ← inputBytes f s
      appendRendered s f b 1) := by
  simp only [endOperation, bind_assoc]
  rfl

section reads
variable {s s' : State} {f : Fields}

/-- The rendering appended to `TOUT` depends on `TOUT`, its capacity, and the separator when `FMT` is Hex. -/
theorem appendRendered_congr (hcfg : s.cfg = s'.cfg) (htout : s.tout = s'.tout)
    (hsep : f.fmt = .hex → s.separator = s'.separator) (p : List Byte) (k : Nat) :
    appendRendered s f p k = appendRendered s' f p k := by
  unfold appendRendered
  rw [hcfg, htout]
  cases hfmt : f.fmt with
  | hex => rw [hsep hfmt]
  | _ => rfl

theorem inputBytes_congr (hcfg : s.cfg = s'.cfg) (htin : s.tin = s'.tin) :
    inputBytes f s = inputBytes f s' := by
  rw [inputBytes, inputBytes, hcfg, htin]

/-- How many chunks are printed depends on `MAXCNT` only when `LIM` is 1 (R195). -/
theorem unpackLines_congr (hmax : f.lim = true → s.maxCnt = s'.maxCnt) (w : Width) (b : List Byte) :
    unpackLines s w f b = unpackLines s' w f b := by
  have hcount : ∀ k, s.printedCount f.lim k = s'.printedCount f.lim k := fun k => by
    cases hlim : f.lim with
    | true => rw [State.printedCount, State.printedCount, hmax hlim]
    | false => rfl
  rw [unpackLines, unpackLines, hcount]

/-- The outcomes of one operation, in two states, whose computations agree. -/
theorem endOperation_congr {i : Instr} {x : Except CoreFault (List Byte)} {t t' : State}
    (hf : s.faulted = false) (hf' : s'.faulted = false) (htin : s.tin = s'.tin)
    (htout : s.tout = s'.tout) (h : endOperation i s x = .next t)
    (h' : endOperation i s' x = .next t') :
    t.faulted = t'.faulted ∧ t.tin = t'.tin ∧ t.tout = t'.tout ∧ (t.faulted = true → t.er = t'.er) := by
  cases x with
  | error k =>
    rw [endOperation, except_error_bind, runCommand_error k hf] at h
    rw [endOperation, except_error_bind, runCommand_error k hf'] at h'
    cases h
    cases h'
    simp [htin, htout]
  | ok o =>
    rw [endOperation, except_ok_bind, runCommand_ok _ hf] at h
    rw [endOperation, except_ok_bind, runCommand_ok _ hf'] at h'
    cases h
    cases h'
    have hend : ((s.withTout o).withTin []).faulted = false := hf
    have hend' : ((s'.withTout o).withTin []).faulted = false := hf'
    simp [hend, hend']

end reads

/-! ### The registers of the error record, the queues -/

/-- The registers that show a part of the error record (R30 to R33, R38). -/
def Reg.showsRecord : Reg → Bool
  | .status | .ecmd | .ebits | .epos | .elen | .errvalWord _ | .errvalTop => true
  | _ => false

theorem reg_ofIndex_showsRecord {i : RegIndex} (cfg : Config)
    (h : (1 ≤ i.toNat ∧ i.toNat ≤ 5) ∨ (0x10 ≤ i.toNat ∧ i.toNat ≤ 0x14)) :
    (Reg.ofIndex cfg i).showsRecord = true := by
  unfold Reg.ofIndex
  generalize i.toNat = n at h
  rcases h with ⟨hlo, hhi⟩ | ⟨hlo, hhi⟩ <;> interval_cases n <;> rfl

/-- A register of the error record is not `CMD`, and a write leaves it as it is (R30 to R33, R38). -/
theorem storeReg_of_showsRecord {r : Reg} (h : r.showsRecord = true) (i : RegIndex) (d : Word)
    (s : State) : r ≠ .cmd ∧ storeReg i d s r = s := by
  cases r with
  | status | ecmd | ebits | epos | elen | errvalWord _ | errvalTop => exact ⟨by simp, rfl⟩
  | _ => cases h

theorem perform_read_bseqData (s : State) : perform (.regRead 0x1A) s =
    .next ((s.withBseq s.bseq.tail).reply (headWord s.bseq)) := rfl

theorem perform_read_toutData (s : State) : perform (.regRead 0x1C) s =
    .next ((s.withTout s.tout.tail).reply (headWord s.tout)) := rfl

/-- A pop of the empty `BSEQ` changes nothing (R40). -/
theorem State.withBseq_tail_of_nil {s : State} (h : s.bseq = []) : s.withBseq s.bseq.tail = s := by
  rw [h, List.tail_nil, ← h]
  rfl

/-- A pop of the empty `TOUT` changes nothing (R41). -/
theorem State.withTout_tail_of_nil {s : State} (h : s.tout = []) : s.withTout s.tout.tail = s := by
  rw [h, List.tail_nil, ← h]
  rfl

/-- A write of `TIN_DATA` while not FAULTED (R39). -/
theorem perform_write_tinData {s : State} (hf : s.faulted = false) (d : Word) :
    perform (.regWrite 0x18 d) s = .next (if s.tin.length < s.cfg.tinCap then
      s.withTin (pushByte s.tin d) else s.withRecord 9 0 0 0x18 0 0) :=
  perform_regWrite_stored (r := .tinData) d hf rfl (by simp)

/-- A write of `BSEQ_DATA` while not FAULTED (R40). -/
theorem perform_write_bseqData {s : State} (hf : s.faulted = false) (d : Word) :
    perform (.regWrite 0x1A d) s = .next (if s.bseq.length < s.cfg.bseqCap then
      s.withBseq (pushByte s.bseq d) else s.withRecord 9 0 0 0x1A 0 0) :=
  perform_regWrite_stored (r := .bseqData) d hf rfl (by simp)

/-- A write of `SEP_LEN` while not FAULTED (R42). -/
theorem perform_write_sepLen {s : State} (hf : s.faulted = false) (d : Word) :
    perform (.regWrite 0x1E d) s = .next (if d.toNat ≤ s.cfg.sepCap then
      s.withSepLen d else s.withRecord 9 0 0 0x1E 0 0) :=
  perform_regWrite_stored (r := .sepLen) d hf rfl (by simp)

/-! ### Reset -/

theorem shape_clear : ErrorRecord.clear.Shape := by decide

/-- A legal CORE right after reset meets the invariant (R48). -/
theorem inv_resetFor {cfg : Config} (h : cfg.Legal) : (State.resetFor cfg).Inv := by
  have ⟨_, _, _, _, _, _, hsep, _, _⟩ := h
  have hlen : (State.resetFor cfg).sepb.length = cfg.sepCap := by
    simp [Arch.reset]
    omega
  exact ⟨h, Nat.zero_le _, Nat.zero_le _, Nat.zero_le _, hlen, hsep, shape_clear, nofun⟩

theorem legal_testInstance : Config.testInstance.Legal := by decide

end Sys2Proof.Machine

/-! ### The statements of 10_state -/

section
open Sys2Proof Sys2Proof.Machine

/-- Settles O15: the gate ignores a write, CLR stands before no gate, and a read does not look at `ERR`. -/
theorem faultedGate : Obligations.FaultedGate := by
  unfold Obligations.FaultedGate
  intro s hs
  have hignored : ∀ (i : RegIndex) (d : Word), ¬ (i = 0 ∧ isClrWord d) →
      perform (.regWrite i d) s = .next s := by
    intro i d hd
    by_cases hi : i = 0
    · subst hi
      exact writeCmd_faulted (fun h => hd ⟨rfl, h⟩) hs
    · rw [perform_regWrite d s hi, gated_of_faulted _ hs]
  refine ⟨hignored, fun d hd => writeCmd_clr hd s,
    fun i hi => ⟨readReg i s, rfl, congrArg _ (readReg_err_irrelevant hi)⟩, rfl, fun e t h => ?_⟩
  rcases perform_record_cases h with ⟨-, rfl⟩ | ⟨-, her | ⟨hf, -⟩⟩
  · exact .inr rfl
  · exact .inl her
  · simp [hs] at hf

/-- Settles O18, from what a transaction can do to the error record. -/
theorem ecmdRecordsCommandWord : Obligations.EcmdRecordsCommandWord := by
  unfold Obligations.EcmdRecordsCommandWord
  intro s t e h
  rcases perform_record_cases h with ⟨hc, rfl⟩ | ⟨hc, her | ⟨hf, i, d, k, w, rfl, rfl, hw⟩⟩
  · exact ⟨by simp, by simp, fun _ => rfl, fun hn => absurd hc hn⟩
  · have hft := State.faulted_congr her
    refine ⟨?_, ?_, fun hc' => absurd hc' hc, fun _ _ => by rw [her]⟩
    · intro d _ hs ht
      simp_all
    · intro i d _ _ hs ht
      simp_all
  · refine ⟨?_, ?_, fun hc' => absurd hc' hc, fun _ hn => absurd ⟨hf, State.raise_faulted ..⟩ hn⟩
    · rintro d' he - -
      cases he
      exact hw.trans (if_pos rfl)
    · rintro i' d' he hi - -
      cases he
      exact hw.trans (if_neg hi)

/-- Settles O21, bit by bit. -/
theorem scalarWordsReadAndWrite : Obligations.ScalarWordsReadAndWrite := by
  unfold Obligations.ScalarWordsReadAndWrite
  intro s j d hj
  refine ⟨perform_regRead_of_reg (reg_ofIndex_valWord s.cfg hj), fun hf => ?_⟩
  refine ⟨_, perform_write_valWord hf hj s.val d, extractLsb'_setScalarWord s.val d hj,
    fun b hb hout => ?_⟩
  rw [getLsbD_setScalarWord _ _ _ hb, if_neg hout]

/-- Settles O22: bit 128 of `VAL`, and the five words of an integer. -/
theorem scalarTopReadsAndWrites : Obligations.ScalarTopReadsAndWrites := by
  unfold Obligations.ScalarTopReadsAndWrites
  refine ⟨fun s => rfl, fun s d hf => ?_, fun s v hf h1 h2 => ?_, fun s w0 w1 w2 w3 w4 hf => ?_⟩
  · refine ⟨_, perform_write_valTop hf s.val d, ?_, fun b hb => ?_⟩
    · rw [getLsbD_setScalarTop _ _ (by omega), if_pos rfl]
    · rw [getLsbD_setScalarTop _ _ (by omega), if_neg (by omega)]
  · exact ⟨_, toInt_ofInt_scalar h1 h2, scalarOfWords_extract v ▸ runEvents_scalar_words hf _ _ _ _ _⟩
  · exact scalarOfWords_eq_ofNat w0 w1 w2 w3 w4 ▸ runEvents_scalar_words hf w0 w1 w2 w3 w4

/-- Settles O27, register by register; `SEPB[k]` by the bytes of an updated list. -/
theorem optionRegisters : Obligations.OptionRegisters := by
  unfold Obligations.OptionRegisters
  intro s d hlen hcap
  refine ⟨rfl, rfl, rfl, fun k hk => ?_, fun hf => ⟨?_, ?_, fun hle => ?_, fun hlt => ?_,
    fun k hk => ⟨s.sepb.set k (d.extractLsb' 0 8), ?_, ?_, ?_, fun m hm => ?_⟩⟩⟩
  · rw [perform_regRead_of_reg (reg_ofIndex_sepByte (hlen ▸ hk) hcap), readValue,
      List.getD_eq_getElem _ _ hk]
    rfl
  · exact perform_regWrite_stored (r := .repeatCnt) d hf rfl (by simp)
  · exact perform_regWrite_stored (r := .maxCnt) d hf rfl (by simp)
  · rw [perform_write_sepLen hf, if_pos hle]
    rfl
  · rw [perform_write_sepLen hf, if_neg (Nat.not_le.mpr hlt)]
  · exact perform_regWrite_stored d hf (reg_ofIndex_sepByte hk hcap) (by simp)
  · exact List.length_set
  · exact List.getElem?_set_self (by omega)
  · exact List.getElem?_set_ne (Ne.symm hm)

/-- Settles O28: the register map sends these indices to the reserved register. -/
theorem reservedIndicesDoNothing : Obligations.ReservedIndicesDoNothing := by
  unfold Obligations.ReservedIndicesDoNothing
  intro s i d h
  have hr := reg_ofIndex_reserved h
  exact ⟨perform_regRead_of_reg hr, perform_regWrite_ignored hr (by simp) rfl⟩

/-- Settles O56, from what each command can do. -/
theorem commandsWriteOnlyTheirRow : Obligations.CommandsWriteOnlyTheirRow := by
  unfold Obligations.CommandsWriteOnlyTheirRow
  intro i s t h
  cases i with
  | clr f =>
    cases h
    rfl
  | pack f => exact (execPack_cases h).frame (by rintro ⟨w, b, -, -, -, rfl⟩; exact ⟨rfl, rfl⟩)
  | unpack f => exact (execUnpack_cases h).frame (by rintro ⟨w, -, -, rfl⟩; exact ⟨rfl, rfl⟩)
  | hexparse f => exact (execHexparse_cases h).frame (by rintro ⟨b, -, -, rfl⟩; exact ⟨rfl, rfl⟩)
  | render f => exact (execRender_cases h).frame (by rintro ⟨o, -, rfl⟩; exact ⟨rfl, rfl⟩)
  | lit f => exact (execLit_cases h).frame (by rintro ⟨v, -, rfl⟩; exact ⟨rfl, rfl⟩)
  | decout f => exact (execDecout_cases h).frame (by rintro ⟨-, rfl⟩; exact ⟨rfl, rfl⟩)
  | brev f => exact (execBrev_cases h).frame (by rintro rfl; exact ⟨rfl, rfl⟩)
  | packop f => exact (execPackop_cases h).frame (by rintro ⟨w, p, o, -, -, -, rfl⟩; exact ⟨rfl, rfl⟩)
  | unpackop f =>
    exact (execUnpackop_cases h).frame (by rintro ⟨w, b, -, -, -, rfl⟩; exact ⟨rfl, rfl⟩)
  | swapop f =>
    exact (execSwapop_cases h).frame (by rintro ⟨w, v, p, o, -, -, -, -, rfl⟩; exact ⟨rfl, rfl⟩)
  | passop f => exact (execPassop_cases h).frame (by rintro ⟨b, o, -, -, rfl⟩; exact ⟨rfl, rfl⟩)

/-- Settles O57: the computation of each operation is the same in the two states. -/
theorem operationsReadOnlyTheirInputs : Obligations.OperationsReadOnlyTheirInputs := by
  unfold Obligations.OperationsReadOnlyTheirInputs
  intro i f s s' t t' hi hf hf' hcfg htin htout hrep hmax hsepRegs h h'
  have hsep : f.fmt = .hex → i ≠ .unpackop f → s.separator = s'.separator := fun hfmt hne => by
    obtain ⟨hb, hl⟩ := hsepRegs hfmt hne
    exact State.separator_congr hb hl
  rcases hi with rfl | rfl | rfl | rfl
  · have happ := appendRendered_congr hcfg htout fun hfmt => hsep hfmt (by simp)
    have hreps : s.repetitions = s'.repetitions := by
      rw [State.repetitions, State.repetitions, hrep rfl]
    rw [exec_packop_eq] at h h'
    simp only [htin, hreps, happ] at h
    exact endOperation_congr hf hf' htin htout h h'
  · have hlines := unpackLines_congr (hmax rfl)
    rw [exec_unpackop_eq] at h h'
    simp only [hcfg, htout, inputBytes_congr hcfg htin, hlines] at h
    exact endOperation_congr hf hf' htin htout h h'
  · have happ := appendRendered_congr hcfg htout fun hfmt => hsep hfmt (by simp)
    rw [exec_swapop_eq] at h h'
    simp only [htin, happ] at h
    exact endOperation_congr hf hf' htin htout h h'
  · have happ := appendRendered_congr hcfg htout fun hfmt => hsep hfmt (by simp)
    rw [exec_passop_eq] at h h'
    simp only [inputBytes_congr hcfg htin, happ] at h
    exact endOperation_congr hf hf' htin htout h h'

/-- Settles O9: a write of a word that decodes is the command it decodes to. -/
theorem stepRunsDecodedCommand : Obligations.StepRunsDecodedCommand := by
  unfold Obligations.StepRunsDecodedCommand
  have hstep : ∀ (s : State) (rest : List HostEvent) (d : Word) (i : Instr),
      s.inbox = .regWrite 0 d :: rest → decode d = .ok i → step s = exec i (s.withInbox rest) := by
    intro s rest d i hin hdec
    rw [step, hin]
    exact writeCmd_of_decode hdec _
  refine ⟨hstep, fun s w i hdec => ?_⟩
  have hmod : BitVec.ofNat 32 (w % 2 ^ 32) = BitVec.ofNat 32 w := by
    apply BitVec.eq_of_toNat_eq
    simp
  exact hstep (s.withFetchWord 32 w) s.inbox _ i rfl (hmod ▸ hdec)

/-- Settles O13: the reset values are within every legal bound. -/
theorem resetSatisfiesInvariant : Obligations.ResetSatisfiesInvariant := by
  unfold Obligations.ResetSatisfiesInvariant
  exact ⟨fun _ h => inv_resetFor h, inv_resetFor legal_testInstance⟩

/-- Settles O20: CLR and reset are the same `State.clear`, whose fields are the table's. -/
theorem clrAndResetGiveResetValues : Obligations.ClrAndResetGiveResetValues := by
  unfold Obligations.ClrAndResetGiveResetValues
  intro s f
  exact ⟨execClr_eq f s, rfl, State.resetFor_toArch s.cfg⟩

/-- Settles O23: each index shows its part of the record, and its write stores nothing. -/
theorem errorRecordIsReadOnly : Obligations.ErrorRecordIsReadOnly := by
  unfold Obligations.ErrorRecordIsReadOnly
  intro s
  refine ⟨rfl, rfl, rfl, rfl, rfl, fun j hj => perform_regRead_of_reg (reg_ofIndex_errvalWord _ hj),
    rfl, fun i d hi => ?_⟩
  obtain ⟨hcmd, hkept⟩ := storeReg_of_showsRecord (reg_ofIndex_showsRecord s.cfg hi) i d s
  exact perform_regWrite_ignored rfl hcmd hkept

/-- Settles O24, from the write of `TIN_DATA` in its two cases. -/
theorem tinRegisters : Obligations.TinRegisters := by
  unfold Obligations.TinRegisters
  intro s d
  refine ⟨rfl, rfl, perform_regWrite_ignored (r := .tinLen) rfl (by simp) rfl, fun hf hlt => ?_,
    fun hf hle => ?_⟩
  · rw [perform_write_tinData hf, if_pos hlt]
    rfl
  · rw [perform_write_tinData hf, if_neg (Nat.not_lt.mpr hle)]

/-- Settles O25, from the read and the write of `BSEQ_DATA`, each in its two cases. -/
theorem bseqRegisters : Obligations.BseqRegisters := by
  unfold Obligations.BseqRegisters
  intro s d
  refine ⟨rfl, perform_regWrite_ignored (r := .bseqLen) rfl (by simp) rfl, fun b q hq => ?_,
    fun hq => ?_, fun hf hlt => ?_, fun hf hle => ?_⟩
  · rw [perform_read_bseqData, hq]
    rfl
  · rw [perform_read_bseqData, State.withBseq_tail_of_nil hq, hq]
    rfl
  · rw [perform_write_bseqData hf, if_pos hlt]
    rfl
  · rw [perform_write_bseqData hf, if_neg (Nat.not_lt.mpr hle)]

/-- Settles O26, from the read of `TOUT_DATA` in its two cases. -/
theorem toutRegisters : Obligations.ToutRegisters := by
  unfold Obligations.ToutRegisters
  intro s d
  refine ⟨rfl, perform_regWrite_ignored (r := .toutLen) rfl (by simp) rfl, fun b q hq => ?_,
    fun hq => ?_, perform_regWrite_ignored (r := .toutData) rfl (by simp) rfl⟩
  · rw [perform_read_toutData, hq]
    rfl
  · rw [perform_read_toutData, State.withTout_tail_of_nil hq, hq]
    rfl

end

/-! ## Transactions: the invariant, runs and reads

What every update and every fault entry keeps of the invariant, why no transaction looks at the inbox, and which
reads remove a byte; then the statements of 20_memory. -/

namespace Sys2Proof.Machine

/-! ### The length of a rendering -/

theorem hexPair_length (upper : Bool) (x : Byte) : (hexPair upper x).length = 2 := rfl

theorem escapeByte_length (upper : Bool) (x : Byte) : (escapeByte upper x).length = 4 := rfl

/-- Hex pairs with a separator between any two of them (R153). -/
theorem length_intercalate_hexPair (sep : List Byte) (upper : Bool) (x : Byte) (b : List Byte) :
    (sep.intercalate ((x :: b).map (hexPair upper))).length = 2 * (b.length + 1) + sep.length * b.length := by
  induction b generalizing x with
  | nil => simp [hexPair_length]
  | cons y b ih =>
    rw [List.map_cons, List.map_cons, List.intercalate_cons_cons, ← List.map_cons]
    simp only [List.length_append, ih, hexPair_length, List.length_cons]
    ring

/-- A rendering has the length the capacity test is made with (R156). -/
theorem length_render (b : List Byte) (fmt : Format) (sep : List Byte) (upper : Bool) :
    (render b fmt sep upper).length = renderLength b.length fmt sep.length := by
  have hesc : (b.flatMap (escapeByte upper)).length = 4 * b.length := by
    simp [List.length_flatMap, escapeByte_length, Nat.mul_comm]
  cases fmt with
  | raw => rfl
  | hex =>
    cases b with
    | nil => rfl
    | cons x b => simp [render, renderLength, length_intercalate_hexPair, -List.map_cons]
  | cEsc => simp [render, renderLength, hesc]
  | pyEsc => simp [render, renderLength, hesc]

/-! ### The faults whose record has the shape of R226 -/

/-- What a fault must carry for its record to have the shape of R221 and R226: a bit width the codec knows, and for
SignError a negative scalar. -/
def CoreFault.WellFormed : CoreFault → Prop
  | .rangeError _ bits => ∃ w : Width, bits = w.bits
  | .signError v bits => (∃ w : Width, bits = w.bits) ∧ smin ≤ v ∧ v < 0
  | _ => True

theorem isWidthWord_sat32_bits (w : Width) : isWidthWord (sat32 w.bits) = true := by
  cases w <;> rfl

theorem CoreFault.record_shape {k : CoreFault} (h : k.WellFormed) (w : Word) : (k.record w).Shape := by
  cases k with
  | rangeError v bits =>
    obtain ⟨wd, rfl⟩ := h
    simp [ErrorRecord.Shape, record, code, ebits, epos, elen, isWidthWord_sat32_bits]
  | signError v bits =>
    obtain ⟨⟨wd, rfl⟩, hmin, hneg⟩ := h
    have hv : (BitVec.ofInt 129 v).toInt = v := toInt_ofInt_scalar hmin (by simp only [smax]; omega)
    simp [ErrorRecord.Shape, record, code, ebits, epos, elen, errval, isWidthWord_sat32_bits, hv, hneg]
  | _ => simp [ErrorRecord.Shape, record, code, ebits, epos, elen, errval]

/-! ### What keeps the invariant -/

namespace State.Inv

variable {s : State}

theorem withVal (h : s.Inv) (v : Scalar) : (s.withVal v).Inv := h

theorem withRepeat (h : s.Inv) (d : Word) : (s.withRepeat d).Inv := h

theorem withMaxCnt (h : s.Inv) (d : Word) : (s.withMaxCnt d).Inv := h

theorem withInbox (h : s.Inv) (es : List HostEvent) : (s.withInbox es).Inv := h

theorem reply (h : s.Inv) (v : Word) : (s.reply v).Inv := h

theorem withTin (h : s.Inv) {q : List Byte} (hq : q.length ≤ s.cfg.tinCap) : (s.withTin q).Inv := by
  obtain ⟨hcfg, -, hrest⟩ := h
  exact ⟨hcfg, hq, hrest⟩

theorem withBseq (h : s.Inv) {q : List Byte} (hq : q.length ≤ s.cfg.bseqCap) : (s.withBseq q).Inv := by
  obtain ⟨hcfg, htin, -, hrest⟩ := h
  exact ⟨hcfg, htin, hq, hrest⟩

theorem withTout (h : s.Inv) {q : List Byte} (hq : q.length ≤ s.cfg.toutCap) : (s.withTout q).Inv := by
  obtain ⟨hcfg, htin, hbseq, -, hrest⟩ := h
  exact ⟨hcfg, htin, hbseq, hq, hrest⟩

theorem withSepb (h : s.Inv) {b : List Byte} (hb : b.length = s.cfg.sepCap) : (s.withSepb b).Inv := by
  obtain ⟨hcfg, htin, hbseq, htout, -, hrest⟩ := h
  exact ⟨hcfg, htin, hbseq, htout, hb, hrest⟩

theorem withSepLen (h : s.Inv) {d : Word} (hd : d.toNat ≤ s.cfg.sepCap) : (s.withSepLen d).Inv := by
  obtain ⟨hcfg, htin, hbseq, htout, hsepb, -, hrest⟩ := h
  exact ⟨hcfg, htin, hbseq, htout, hsepb, hd, hrest⟩

theorem raise (h : s.Inv) {k : CoreFault} (hk : k.WellFormed) (w : Word) : (s.raise w k).Inv := by
  obtain ⟨hcfg, htin, hbseq, htout, hsepb, hsepLen, -, -⟩ := h
  exact ⟨hcfg, htin, hbseq, htout, hsepb, hsepLen, CoreFault.record_shape hk w, fun _ => rfl⟩

theorem clear (h : s.Inv) : s.clear.Inv := by
  obtain ⟨hcfg, -⟩ := h
  obtain ⟨-, htin, hbseq, htout, hsepb, hsepLen, her, -⟩ := inv_resetFor hcfg
  exact ⟨hcfg, htin, hbseq, htout, hsepb, hsepLen, her, nofun⟩

theorem gated {t : State} (hs : s.Inv) (ht : t.Inv) : (gated s t).Inv := by
  rcases gated_cases s t with ⟨-, hg⟩ | ⟨-, hg⟩
  · rwa [hg]
  · rwa [hg]

theorem bseq_le (h : s.Inv) : s.bseq.length ≤ s.cfg.bseqCap := by
  obtain ⟨-, -, hbseq, -⟩ := h
  exact hbseq

theorem tout_le (h : s.Inv) : s.tout.length ≤ s.cfg.toutCap := by
  obtain ⟨-, -, -, htout, -⟩ := h
  exact htout

theorem sepb_length (h : s.Inv) : s.sepb.length = s.cfg.sepCap := by
  obtain ⟨-, -, -, -, hsepb, -⟩ := h
  exact hsepb

end State.Inv

/-! ### The parts of a command's computation -/

/-- `x` gives a value of which `P` holds, or raises a fault whose record has its shape. -/
def Yields {α : Type} (x : Except CoreFault α) (P : α → Prop) : Prop :=
  (∀ a, x = .ok a → P a) ∧ ∀ k, x = .error k → k.WellFormed

namespace Yields

variable {α β : Type} {P : α → Prop} {Q : β → Prop}

theorem ok {a : α} (h : P a) : Yields (.ok a) P :=
  ⟨fun _ ha => Except.ok.inj ha ▸ h, nofun⟩

theorem error {k : CoreFault} (h : k.WellFormed) : Yields (.error k) P :=
  ⟨nofun, fun _ hk => Except.error.inj hk ▸ h⟩

theorem bind {x : Except CoreFault β} {g : β → Except CoreFault α} (hx : Yields x Q)
    (hg : ∀ b, Q b → Yields (g b) P) : Yields (x >>= g) P := by
  obtain ⟨hok, herr⟩ := hx
  cases x with
  | ok b => exact hg b (hok b rfl)
  | error k => exact error (herr k rfl)

theorem widthOf (f : Fields) : Yields (widthOf f) fun _ => True :=
  ⟨fun _ _ => trivial, fun k hk => by
    obtain ⟨-, rfl⟩ := widthOf_error_iff.mp hk
    trivial⟩

theorem roomFor (len cap needed : Nat) : Yields (roomFor len cap needed) fun _ => len + needed ≤ cap :=
  ⟨fun _ => roomFor_ok_iff.mp, fun k hk => by
    obtain ⟨-, rfl⟩ := roomFor_error_iff.mp hk
    trivial⟩

/-- `pack` of a scalar: the value a SignError names is then one `ERRVAL` can hold (R38). -/
theorem pack {v : Int} (hv : smin ≤ v) (w : Width) (e : Endian) (sg st : Bool) :
    Yields (pack v w e sg st) fun b => b.length = w.bytes := by
  refine ⟨fun b hb => ?_, fun k hk => ?_⟩
  · obtain ⟨-, rfl⟩ := pack_ok_iff.mp hb
    exact splitBytes_length ..
  · obtain ⟨-, ⟨-, hneg, rfl⟩ | ⟨-, rfl⟩⟩ := packCheck_error (pack_error_iff.mp hk)
    · exact ⟨⟨w, rfl⟩, hv, hneg⟩
    · exact ⟨w, rfl⟩

theorem literal (s : List Byte) (pos : Nat) : Yields (literal s pos) fun v => smin ≤ v := by
  refine ⟨fun v hv => ?_, fun k hk => ?_⟩
  · obtain ⟨-, hmin, -⟩ := literal_ok_iff.mp hv
    exact hmin
  · rw [literal_error hk]
    trivial

theorem parseToken (pos : Nat) (tok : List Byte) : Yields (parseToken pos tok) fun _ => True :=
  ⟨fun _ _ => trivial, fun k hk => by
    obtain ⟨-, rfl⟩ | ⟨-, -, rfl⟩ := parseToken_error hk <;> trivial⟩

theorem parseTokens (ts : List (Nat × List Byte)) : Yields (parseTokens ts) fun _ => True := by
  induction ts with
  | nil => exact ok trivial
  | cons p ts ih => exact (parseToken p.1 p.2).bind fun b _ => ih.bind fun bs _ => ok trivial

theorem packLiterals (w : Width) (f : Fields) (ts : List (Nat × List Byte)) :
    Yields (packLiterals w f ts) fun _ => True := by
  induction ts with
  | nil => exact ok trivial
  | cons p ts ih =>
    exact (literal p.2 p.1).bind fun v hv => (pack hv w f.endian f.signed f.strict).bind fun b _ =>
      ih.bind fun bs _ => ok trivial

theorem inputBytes (f : Fields) (s : State) : Yields (inputBytes f s) fun _ => True := by
  unfold Machine.inputBytes
  cases f.infmt with
  | hexText => exact parseTokens _
  | rawBytes => exact ok trivial

/-- The new `TOUT` is within its capacity: the test by the formulas of R156 is the test of the rendering itself. -/
theorem appendRendered (s : State) (f : Fields) (p : List Byte) (k : Nat) :
    Yields (appendRendered s f p k) fun o => o.length ≤ s.cfg.toutCap :=
  (roomFor ..).bind fun _ hroom => ok (by simpa [length_render] using hroom)

end Yields

/-! ### Every transaction keeps the invariant -/

/-- How an operation command succeeds: a new `TOUT`, within its capacity, and an empty `TIN` (R190). -/
theorem State.Inv.endOperation {s : State} {o : List Byte} (h : s.Inv) (ho : o.length ≤ s.cfg.toutCap) :
    ((s.withTout o).withTin []).Inv :=
  (h.withTout ho).withTin (Nat.zero_le _)

/-- Every command but CLR ends by `runCommand`, on a body that keeps the invariant when it succeeds and raises no
fault whose record is out of shape. -/
theorem exec_eq_runCommand_yields {i : Instr} (hi : ¬ ∃ f, i = .clr f) {s : State} (h : s.Inv) :
    ∃ r, exec i s = runCommand i s r ∧ Yields r State.Inv := by
  cases i with
  | clr f => exact absurd ⟨f, rfl⟩ hi
  | pack f =>
    refine ⟨_, rfl, (Yields.widthOf f).bind fun w _ => (Yields.pack s.scalar_bounds.1 ..).bind
      fun b hb => (Yields.roomFor ..).bind fun _ hroom => .ok (h.withBseq ?_)⟩
    rwa [List.length_append, hb]
  | unpack f =>
    refine ⟨_, rfl, (Yields.widthOf f).bind fun w _ => ?_⟩
    split
    · exact .error trivial
    · refine .ok ((h.withBseq ?_).withVal _)
      exact (List.drop_sublist ..).length_le.trans h.bseq_le
  | hexparse f =>
    refine ⟨_, rfl, (Yields.parseTokens _).bind fun b _ => (Yields.roomFor ..).bind fun _ hroom =>
      .ok ((h.withBseq ?_).withTin (Nat.zero_le _))⟩
    rwa [List.length_append]
  | render f =>
    exact ⟨_, rfl, (Yields.appendRendered ..).bind fun o ho =>
      .ok ((h.withTout ho).withBseq (Nat.zero_le _))⟩
  | lit f =>
    exact ⟨_, rfl, (Yields.literal ..).bind fun v _ => .ok ((h.withVal _).withTin (Nat.zero_le _))⟩
  | decout f =>
    refine ⟨_, rfl, (Yields.roomFor ..).bind fun _ hroom => .ok (h.withTout ?_)⟩
    rwa [List.length_append]
  | brev f =>
    refine ⟨.ok (s.withBseq s.bseq.reverse), rfl, .ok (h.withBseq ?_)⟩
    exact List.length_reverse.trans_le h.bseq_le
  | packop f =>
    exact ⟨_, rfl, (Yields.widthOf f).bind fun w _ => (Yields.packLiterals ..).bind fun p _ =>
      (Yields.appendRendered ..).bind fun o ho => .ok (h.endOperation ho)⟩
  | unpackop f =>
    refine ⟨_, rfl, (Yields.widthOf f).bind fun w _ => (Yields.inputBytes f s).bind fun b _ =>
      (Yields.roomFor ..).bind fun _ hroom => .ok (h.endOperation ?_)⟩
    rwa [List.length_append]
  | swapop f =>
    exact ⟨_, rfl, (Yields.widthOf f).bind fun w _ => (Yields.literal ..).bind fun v hv =>
      (Yields.pack hv ..).bind fun p _ => (Yields.appendRendered ..).bind fun o ho =>
        .ok (h.endOperation ho)⟩
  | passop f =>
    exact ⟨_, rfl, (Yields.inputBytes f s).bind fun b _ => (Yields.appendRendered ..).bind fun o ho =>
      .ok (h.endOperation ho)⟩

theorem exec_preserves_inv {i : Instr} {s t : State} (h : s.Inv) (hx : exec i s = .next t) : t.Inv := by
  by_cases hi : ∃ f, i = .clr f
  · obtain ⟨f, rfl⟩ := hi
    cases hx
    exact h.clear
  · obtain ⟨r, hr, hok, herr⟩ := exec_eq_runCommand_yields hi h
    rcases runCommand_cases (hr ▸ hx) with ⟨-, rfl⟩ | ⟨-, ht⟩ | ⟨-, k, hk, rfl⟩
    · exact h
    · exact hok t ht
    · exact h.raise (herr k hk) _

theorem decodeFault_wellFormed (e : DecodeError) : (decodeFault e).WellFormed := by
  cases e <;> trivial

theorem writeCmd_preserves_inv {d : Word} {s t : State} (h : s.Inv) (hx : writeCmd d s = .next t) :
    t.Inv := by
  cases hdec : decode d with
  | ok i => exact exec_preserves_inv h (writeCmd_of_decode hdec s ▸ hx)
  | error e =>
    rw [writeCmd_of_error hdec] at hx
    cases hx
    exact h.gated (h.raise (decodeFault_wellFormed e) d)

theorem storeReg_preserves_inv {s : State} (h : s.Inv) (i : RegIndex) (d : Word) (r : Reg) :
    (storeReg i d s r).Inv := by
  rcases storeReg_cases i d s r with hx | hx | hx | hx | ⟨v, hx⟩ | ⟨hlt, hx⟩ | ⟨hlt, hx⟩ | ⟨hle, hx⟩ |
    ⟨k, hx⟩ <;> rw [hx]
  · exact h
  · exact h.raise (k := .capacityWrite i) trivial 0
  · exact h.withRepeat d
  · exact h.withMaxCnt d
  · exact h.withVal v
  · exact h.withTin (by simpa [pushByte] using hlt)
  · exact h.withBseq (by simpa [pushByte] using hlt)
  · exact h.withSepLen hle
  · exact h.withSepb (List.length_set.trans h.sepb_length)

theorem readReg_preserves_inv {s : State} (h : s.Inv) (i : RegIndex) : (readReg i s).Inv := by
  obtain ⟨v, hx | hx | hx⟩ := readReg_cases i s <;> rw [hx]
  · exact h.reply v
  · exact (h.withBseq ((List.tail_sublist _).length_le.trans h.bseq_le)).reply v
  · exact (h.withTout ((List.tail_sublist _).length_le.trans h.tout_le)).reply v

theorem perform_preserves_inv {e : HostEvent} {s t : State} (h : s.Inv) (hx : perform e s = .next t) :
    t.Inv := by
  cases e with
  | reset =>
    cases hx
    exact h.clear
  | regRead i =>
    cases hx
    exact readReg_preserves_inv h i
  | regWrite i d =>
    by_cases hi : i = 0
    · subst hi
      exact writeCmd_preserves_inv h hx
    · rw [perform_regWrite d s hi] at hx
      cases hx
      exact h.gated (storeReg_preserves_inv h i d _)

/-! ### No transaction looks at the inbox -/

theorem gated_withInbox (s t : State) (es : List HostEvent) :
    gated (s.withInbox es) (t.withInbox es) = (gated s t).withInbox es :=
  (apply_ite (State.withInbox · es) (s.faulted = true) s t).symm

theorem except_map_bind {ε α β γ : Type} (x : Except ε α) (g : α → Except ε β) (φ : β → γ) :
    (x >>= g).map φ = x >>= fun a => (g a).map φ := by
  cases x <;> rfl

/-- How a command ends does not depend on the events to come, when its body only carries them along. -/
theorem runCommand_withInbox (i : Instr) (s : State) (r : Except CoreFault State) :
    ∃ t : State, ∀ es, runCommand i (s.withInbox es) (r.map (State.withInbox · es)) =
      .next (t.withInbox es) := by
  cases r with
  | ok u => exact ⟨gated s u, fun es => congrArg _ (gated_withInbox s u es)⟩
  | error k =>
    exact ⟨gated s (s.raise (encode i) k), fun es => congrArg _ (gated_withInbox s (s.raise _ k) es)⟩

/-- Every command but CLR ends by `runCommand`, on a body that only carries the events to come along. -/
theorem exec_eq_runCommand_withInbox {i : Instr} (hi : ¬ ∃ f, i = .clr f) (s : State) :
    ∃ r, exec i s = runCommand i s r ∧ ∀ es, exec i (s.withInbox es) =
      runCommand i (s.withInbox es) (r.map (State.withInbox · es)) := by
  cases i with
  | clr f => exact absurd ⟨f, rfl⟩ hi
  | unpack f =>
    refine ⟨_, rfl, fun es => ?_⟩
    simp only [except_map_bind, apply_ite (Except.map (State.withInbox · es))]
    rfl
  | brev f => exact ⟨.ok (s.withBseq s.bseq.reverse), rfl, fun es => rfl⟩
  | pack f | hexparse f | render f | lit f | decout f | packop f | unpackop f | swapop f | passop f =>
    refine ⟨_, rfl, fun es => ?_⟩
    simp only [except_map_bind]
    rfl

theorem exec_withInbox (i : Instr) (s : State) :
    ∃ t : State, ∀ es, exec i (s.withInbox es) = .next (t.withInbox es) := by
  by_cases hi : ∃ f, i = .clr f
  · obtain ⟨f, rfl⟩ := hi
    exact ⟨s.clear, fun es => rfl⟩
  · obtain ⟨r, -, hr⟩ := exec_eq_runCommand_withInbox hi s
    obtain ⟨t, ht⟩ := runCommand_withInbox i s r
    exact ⟨t, fun es => (hr es).trans (ht es)⟩

theorem writeCmd_withInbox (d : Word) (s : State) :
    ∃ t : State, ∀ es, writeCmd d (s.withInbox es) = .next (t.withInbox es) := by
  cases hdec : decode d with
  | ok i =>
    simp only [writeCmd_of_decode hdec]
    exact exec_withInbox i s
  | error e =>
    simp only [writeCmd_of_error hdec]
    exact ⟨gated s (s.raise d (decodeFault e)), fun es => congrArg _ (gated_withInbox s (s.raise ..) es)⟩

theorem storeReg_withInbox (i : RegIndex) (d : Word) (s : State) (r : Reg) (es : List HostEvent) :
    storeReg i d (s.withInbox es) r = (storeReg i d s r).withInbox es := by
  cases r with
  | tinData | bseqData | sepLen =>
    simp only [storeReg, apply_ite (State.withInbox · es)]
    rfl
  | _ => rfl

theorem readReg_withInbox (i : RegIndex) (s : State) (es : List HostEvent) :
    readReg i (s.withInbox es) = (readReg i s).withInbox es := by
  simp only [readReg, State.withInbox_cfg]
  cases Reg.ofIndex s.cfg i <;> rfl

/-- A transaction does the same whatever the host does after it (R69). -/
theorem perform_withInbox (e : HostEvent) (s : State) :
    ∃ t : State, ∀ es, perform e (s.withInbox es) = .next (t.withInbox es) := by
  cases e with
  | reset => exact ⟨s.clear, fun es => rfl⟩
  | regRead i => exact ⟨readReg i s, fun es => congrArg _ (readReg_withInbox i s es)⟩
  | regWrite i d =>
    by_cases hi : i = 0
    · subst hi
      exact writeCmd_withInbox d s
    · refine ⟨gated s (storeReg i d s (Reg.ofIndex s.cfg i)), fun es => ?_⟩
      rw [perform_regWrite d _ hi, State.withInbox_cfg, storeReg_withInbox, gated_withInbox]

/-! ### Steps and runs -/

theorem step_of_inbox_nil {s : State} (h : s.inbox = []) : step s = .next s := by
  rw [step, h]

theorem step_of_inbox_cons {s : State} {e : HostEvent} {es : List HostEvent} (h : s.inbox = e :: es) :
    step s = perform e (s.withInbox es) := by
  rw [step, h]

theorem step_preserves_inv {s t : State} (h : s.Inv) (hx : step s = .next t) : t.Inv := by
  cases hin : s.inbox with
  | nil =>
    rw [step_of_inbox_nil hin] at hx
    cases hx
    exact h
  | cons e es => exact perform_preserves_inv (h.withInbox es) (step_of_inbox_cons hin ▸ hx)

theorem run_succ_of_next {s t : State} (h : step s = .next t) (n : Nat) :
    Sys2Proof.core.run (n + 1) s = Sys2Proof.core.run n t := by
  have hcore : Sys2Proof.core.step s = .next t := h
  simp only [Host.Core.run, hcore]

/-- As many steps as there are events `es` perform them, and leave the events after them to come. -/
theorem run_length_eq_runEvents (es rest : List HostEvent) (s : State) :
    Sys2Proof.core.run es.length (s.withInbox (es ++ rest)) = runEvents es (s.withInbox rest) := by
  induction es generalizing s with
  | nil => rfl
  | cons e es ih =>
    obtain ⟨t, ht⟩ := perform_withInbox e s
    have hstep : step (s.withInbox (e :: es ++ rest)) = .next (t.withInbox (es ++ rest)) :=
      ht (es ++ rest)
    rw [List.length_cons, run_succ_of_next hstep, runEvents_cons_of_next (ht rest), ih t]

/-! ### Reads without side effect -/

/-- Only the indices of `BSEQ_DATA` and `TOUT_DATA` select a register whose read removes a byte (R28, R68). -/
theorem afterRead_ofIndex_of_ne {i : RegIndex} (hb : i ≠ 0x1A) (ht : i ≠ 0x1C) (cfg : Config) (s : State) :
    afterRead s (Reg.ofIndex cfg i) = s := by
  unfold Reg.ofIndex
  split
  case h_21 hi => exact absurd (BitVec.eq_of_toNat_eq hi) hb
  case h_23 hi => exact absurd (BitVec.eq_of_toNat_eq hi) ht
  case h_26 => split <;> rfl
  all_goals rfl

end Sys2Proof.Machine

/-! ### The statements of 20_memory -/

section
open Sys2Proof Sys2Proof.Machine

/-- Settles O12: every transaction keeps the invariant, and a step performs one or none. -/
theorem stepKeepsInvariant : Obligations.StepKeepsInvariant := by
  unfold Obligations.StepKeepsInvariant
  exact fun _ _ => step_preserves_inv

/-- Settles O10, by induction on the events: no transaction looks at those that come after it. -/
theorem runPerformsTransactionsInOrder : Obligations.RunPerformsTransactionsInOrder := by
  unfold Obligations.RunPerformsTransactionsInOrder
  exact ⟨run_length_eq_runEvents, fun _ => step_of_inbox_nil⟩

/-- Settles O29: the value is that of the register, and the map gives the two indices that pop. -/
theorem readsOnlyPopDataQueues : Obligations.ReadsOnlyPopDataQueues := by
  unfold Obligations.ReadsOnlyPopDataQueues
  intro s i
  refine ⟨readValue s (Reg.ofIndex s.cfg i), ?_, ?_, ?_, fun hb ht => ?_⟩
  · rintro rfl
    rfl
  · rintro rfl
    rfl
  · rintro rfl
    rfl
  · rw [perform_regRead_of_reg rfl, afterRead_ofIndex_of_ne hb ht]

end

/-! ## Command words: the encoder, the decoder and the assembler

Each field of an encoded word stands at its place; a word with the reserved bits zero and the opcode of a command
decodes by one rule. From these the statements of 30_encoding follow. -/

namespace Sys2Proof

/-! ### The encoder -/

@[simp] theorem Format.ofCode_code (x : Format) : Format.ofCode x.code = x := by
  cases x <;> rfl

@[simp] theorem Endian.ofBit_bit (e : Endian) : Endian.ofBit e.bit = e := by
  cases e <;> rfl

@[simp] theorem InFormat.ofBit_bit (x : InFormat) : InFormat.ofBit x.bit = x := by
  cases x <;> rfl

/-- Bits 31:15 of a command's word are zero (R93). -/
theorem reserved_encode (i : Instr) : (encode i).extractLsb' 15 17 = 0 := by
  rw [encode, encodeWord, BitVec.extractLsb'_append_eq_of_le (by decide), BitVec.extractLsb'_append_eq_left]
  rfl

theorem opcode_encode (i : Instr) : (encode i).extractLsb' 0 4 = i.opcode :=
  BitVec.extractLsb'_append_eq_right

/-- The fields of an encoded word are the fields it was made of (R82). -/
theorem Fields.ofWord_encodeWord (op : BitVec 4) (f : Fields) : Fields.ofWord (encodeWord op f) = f := by
  have hwc : (encodeWord op f).extractLsb' 4 3 = f.wc := by
    rw [encodeWord, BitVec.extractLsb'_append_eq_of_le (by decide),
      BitVec.extractLsb'_append_eq_of_add_le (by decide)]
    exact BitVec.extractLsb'_append_eq_right
  have hfmt : (encodeWord op f).extractLsb' 10 2 = f.fmt.code := by
    rw [encodeWord, BitVec.extractLsb'_append_eq_of_le (by decide),
      BitVec.extractLsb'_append_eq_of_add_le (by decide), Fields.toBits]
    simp only [BitVec.extractLsb'_append_eq_of_le (w := 3), BitVec.extractLsb'_append_eq_of_le (w := 1),
      BitVec.extractLsb'_append_eq_right, Nat.reduceSub, Nat.reduceLeDiff]
  rw [Fields.ofWord, hwc, hfmt]
  simp only [encodeWord, Fields.toBits, BitVec.getLsbD_append]
  simp

/-- The command word as the OR of its fields (R93), bit by bit. -/
theorem encodeWord_eq_or (op : BitVec 4) (f : Fields) : encodeWord op f =
    op.setWidth 32 ||| (f.wc.setWidth 32 <<< 4) |||
    ((BitVec.ofBool f.endian.bit).setWidth 32 <<< 7) |||
    ((BitVec.ofBool f.signed).setWidth 32 <<< 8) |||
    ((BitVec.ofBool f.strict).setWidth 32 <<< 9) |||
    (f.fmt.code.setWidth 32 <<< 10) |||
    ((BitVec.ofBool f.upper).setWidth 32 <<< 12) |||
    ((BitVec.ofBool f.infmt.bit).setWidth 32 <<< 13) |||
    ((BitVec.ofBool f.lim).setWidth 32 <<< 14) := by
  apply BitVec.eq_of_getLsbD_eq
  intro b hb
  simp only [encodeWord, Fields.toBits, BitVec.getLsbD_append, BitVec.getLsbD_or, BitVec.getLsbD_shiftLeft,
    BitVec.getLsbD_setWidth]
  interval_cases b <;> simp

end Sys2Proof

namespace Sys2Proof.Machine

/-! ### The decoder -/

@[simp] theorem Command.fields_instr (c : Command) (f : Fields) : (c.instr f).fields = f := by
  cases c <;> rfl

/-- Every command term is one of the twelve commands with its fields. -/
theorem exists_command_instr (i : Instr) : ∃ c : Command, i = c.instr i.fields := by
  cases i with
  | pack f => exact ⟨.pack, rfl⟩
  | unpack f => exact ⟨.unpack, rfl⟩
  | hexparse f => exact ⟨.hexparse, rfl⟩
  | render f => exact ⟨.render, rfl⟩
  | lit f => exact ⟨.lit, rfl⟩
  | decout f => exact ⟨.decout, rfl⟩
  | brev f => exact ⟨.brev, rfl⟩
  | packop f => exact ⟨.packop, rfl⟩
  | unpackop f => exact ⟨.unpackop, rfl⟩
  | swapop f => exact ⟨.swapop, rfl⟩
  | passop f => exact ⟨.passop, rfl⟩
  | clr f => exact ⟨.clr, rfl⟩

/-- R81 for a word with the reserved bits zero and the opcode of a command: what remains is the width code. -/
theorem decode_of_opcode {d : Word} {c : Command} (hres : d.extractLsb' 15 17 = 0)
    (hop : d.extractLsb' 0 4 = (c.instr (Fields.ofWord d)).opcode) :
    decode d = if (c.instr (Fields.ofWord d)).wellFormed then .ok (c.instr (Fields.ofWord d))
      else .error .unsupportedWidth := by
  unfold decode
  rw [if_neg (not_not_intro hres), hop]
  cases c <;> rfl

theorem decode_of_reserved {d : Word} (h : d.extractLsb' 15 17 ≠ 0) : decode d = .error .illegalCommand :=
  if_pos h

/-- The four opcodes no command has are rejected (R81 step 2, R87). -/
theorem decode_of_reserved_opcode {d : Word} (h : d.extractLsb' 0 4 ∈ [(0x0 : BitVec 4), 0xC, 0xD, 0xE]) :
    decode d = .error .illegalCommand := by
  unfold decode
  split
  · rfl
  · simp only [List.mem_cons, List.not_mem_nil, or_false] at h
    rcases h with h | h | h | h <;> rw [h] <;> rfl

/-- The decoder reads back every well-formed command (R81, R93). -/
theorem decode_encode {i : Instr} (h : i.wellFormed = true) : decode (encode i) = .ok i := by
  obtain ⟨c, hi⟩ := exists_command_instr i
  have hdec : c.instr (Fields.ofWord (encode i)) = i := by
    rw [encode, Fields.ofWord_encodeWord, ← hi]
  have hop : (encode i).extractLsb' 0 4 = (c.instr (Fields.ofWord (encode i))).opcode := by
    rw [hdec, opcode_encode]
  rw [decode_of_opcode (reserved_encode i) hop, hdec, if_pos h]

/-- A command some word decodes to has passed the width test (R81 step 3). -/
theorem wellFormed_of_decode {d : Word} {i : Instr} (h : decode d = .ok i) : i.wellFormed = true := by
  obtain ⟨hres, hop⟩ := decode_reserved_opcode h
  obtain ⟨c, hi⟩ := exists_command_instr i
  rw [decode_fields h] at hi
  rw [decode_of_opcode hres (hi ▸ hop), ← hi] at h
  by_contra hwf
  rw [if_neg hwf] at h
  cases h

/-- The match test of the opcode table (R85) reads the reserved bits and the opcode. -/
theorem matchTest_iff {d : Word} {op : BitVec 4} :
    d &&& 0xFFFF800F#32 = op.setWidth 32 ↔ d.extractLsb' 15 17 = 0 ∧ d.extractLsb' 0 4 = op := by
  have hmask : d &&& 0xFFFF800F#32 = d.extractLsb' 15 17 ++ 0#11 ++ d.extractLsb' 0 4 := by
    apply BitVec.eq_of_getLsbD_eq
    intro b hb
    simp only [BitVec.getLsbD_and, BitVec.getLsbD_append, BitVec.getLsbD_extractLsb']
    interval_cases b <;> simp
  have hop : op.setWidth 32 = 0#17 ++ 0#11 ++ op := by
    apply BitVec.eq_of_getLsbD_eq
    intro b hb
    simp only [BitVec.getLsbD_setWidth, BitVec.getLsbD_append]
    interval_cases b <;> simp
  have hhigh : ∀ (r : BitVec 17) (o : BitVec 4), (r ++ 0#11 ++ o).extractLsb' 15 17 = r := fun r o => by
    rw [BitVec.extractLsb'_append_eq_of_le (by decide), BitVec.extractLsb'_append_eq_left]
  constructor
  · intro h
    rw [hmask, hop] at h
    exact ⟨(hhigh ..).symm.trans ((congrArg (BitVec.extractLsb' 15 17) h).trans (hhigh ..)),
      by simpa only [BitVec.extractLsb'_append_eq_right] using congrArg (BitVec.extractLsb' 0 4) h⟩
  · rintro ⟨h15, h0⟩
    rw [hmask, hop, h15, h0]
    rfl

/-- The commands that use a width are well-formed with a valid width code (R86, R88). -/
theorem exists_width_command {op : BitVec 4} (h : op ∈ [(0x1 : BitVec 4), 0x2, 0x8, 0x9, 0xA]) :
    ∃ c : Command, ∀ f, (c.instr f).opcode = op ∧ (c.instr f).wellFormed = f.widthCodeValid := by
  simp only [List.mem_cons, List.not_mem_nil, or_false] at h
  rcases h with rfl | rfl | rfl | rfl | rfl
  · exact ⟨.pack, fun _ => ⟨rfl, rfl⟩⟩
  · exact ⟨.unpack, fun _ => ⟨rfl, rfl⟩⟩
  · exact ⟨.packop, fun _ => ⟨rfl, rfl⟩⟩
  · exact ⟨.unpackop, fun _ => ⟨rfl, rfl⟩⟩
  · exact ⟨.swapop, fun _ => ⟨rfl, rfl⟩⟩

/-- The other commands are well-formed whatever the width code (R86). -/
theorem exists_widthless_command {op : BitVec 4} (h : op ∈ [(0x3 : BitVec 4), 0x4, 0x5, 0x6, 0x7, 0xB, 0xF]) :
    ∃ c : Command, ∀ f, (c.instr f).opcode = op ∧ (c.instr f).wellFormed = true := by
  simp only [List.mem_cons, List.not_mem_nil, or_false] at h
  rcases h with rfl | rfl | rfl | rfl | rfl | rfl | rfl
  · exact ⟨.hexparse, fun _ => ⟨rfl, rfl⟩⟩
  · exact ⟨.render, fun _ => ⟨rfl, rfl⟩⟩
  · exact ⟨.lit, fun _ => ⟨rfl, rfl⟩⟩
  · exact ⟨.decout, fun _ => ⟨rfl, rfl⟩⟩
  · exact ⟨.brev, fun _ => ⟨rfl, rfl⟩⟩
  · exact ⟨.passop, fun _ => ⟨rfl, rfl⟩⟩
  · exact ⟨.clr, fun _ => ⟨rfl, rfl⟩⟩

/-! ### The fields a command uses -/

section fields
variable {f g : Fields}

theorem widthOf_congr (hwc : f.wc = g.wc) : widthOf f = widthOf g := by
  rw [widthOf, widthOf, hwc]

theorem packLiterals_congr (hend : f.endian = g.endian) (hsg : f.signed = g.signed)
    (hst : f.strict = g.strict) (w : Width) (ts : List (Nat × List Byte)) :
    packLiterals w f ts = packLiterals w g ts := by
  induction ts with
  | nil => rfl
  | cons p ts ih => simp only [packLiterals, hend, hsg, hst, ih]

theorem inputBytes_congr_infmt (hin : f.infmt = g.infmt) (s : State) : inputBytes f s = inputBytes g s := by
  rw [inputBytes, inputBytes, hin]

theorem unpackLines_congr_fields (hend : f.endian = g.endian) (hsg : f.signed = g.signed)
    (hlim : f.lim = g.lim) (s : State) (w : Width) (b : List Byte) :
    unpackLines s w f b = unpackLines s w g b := by
  rw [unpackLines, unpackLines, hend, hsg, hlim]

/-- A raw rendering has no letters, so `UPPER` matters only for the other formats (R86, R152). -/
theorem appendRendered_congr_fields (hfmt : f.fmt = g.fmt) (hup : f.upper = g.upper ∨ f.fmt = .raw)
    (s : State) (p : List Byte) (k : Nat) : appendRendered s f p k = appendRendered s g p k := by
  rw [appendRendered, appendRendered, ← hfmt]
  rcases hup with hup | hraw
  · rw [hup]
  · rw [hraw]
    rfl

/-- Two field settings that differ only in fields the command ignores (R86). -/
def AgreeOnUsed (c : Command) (f g : Fields) : Prop :=
  ∀ n ∈ c.usedFields, agreeOn f g n = true ∨ (n = .upper ∧ f.fmt = .raw)

namespace AgreeOnUsed
variable {c : Command} (h : AgreeOnUsed c f g)
include h

theorem agree {n : FieldName} (hn : n ∈ c.usedFields) (hne : n ≠ .upper) : agreeOn f g n = true :=
  (h n hn).resolve_right fun hup => hne hup.1

theorem upper (hn : .upper ∈ c.usedFields := by decide) : f.upper = g.upper ∨ f.fmt = .raw :=
  (h .upper hn).imp eq_of_beq And.right

theorem wc (hn : .wc ∈ c.usedFields := by decide) : f.wc = g.wc :=
  eq_of_beq (h.agree hn nofun)

theorem endian (hn : .endian ∈ c.usedFields := by decide) : f.endian = g.endian :=
  eq_of_beq (h.agree hn nofun)

theorem signed (hn : .signed ∈ c.usedFields := by decide) : f.signed = g.signed :=
  eq_of_beq (h.agree hn nofun)

theorem strict (hn : .strict ∈ c.usedFields := by decide) : f.strict = g.strict :=
  eq_of_beq (h.agree hn nofun)

theorem fmt (hn : .fmt ∈ c.usedFields := by decide) : f.fmt = g.fmt :=
  eq_of_beq (h.agree hn nofun)

theorem infmt (hn : .infmt ∈ c.usedFields := by decide) : f.infmt = g.infmt :=
  eq_of_beq (h.agree hn nofun)

theorem lim (hn : .lim ∈ c.usedFields := by decide) : f.lim = g.lim :=
  eq_of_beq (h.agree hn nofun)

end AgreeOnUsed

/-- The computation of a command other than CLR is the same for two field settings that differ only in fields
the command ignores (R86); only the command word differs. -/
theorem exec_eq_runCommand_of_agree {c : Command} (hc : c ≠ .clr) (h : AgreeOnUsed c f g) (s : State) :
    ∃ r, exec (c.instr f) s = runCommand (c.instr f) s r ∧
      exec (c.instr g) s = runCommand (c.instr g) s r := by
  cases c with
  | clr => exact absurd rfl hc
  | hexparse | lit | decout => exact ⟨_, rfl, rfl⟩
  | brev => exact ⟨.ok (s.withBseq s.bseq.reverse), rfl, rfl⟩
  | pack =>
    refine ⟨_, rfl, ?_⟩
    rw [widthOf_congr h.wc, h.endian, h.signed, h.strict]
    rfl
  | unpack =>
    refine ⟨_, rfl, ?_⟩
    rw [widthOf_congr h.wc, h.endian, h.signed]
    rfl
  | render =>
    refine ⟨_, rfl, ?_⟩
    rw [appendRendered_congr_fields h.fmt h.upper]
    rfl
  | packop =>
    refine ⟨_, rfl, ?_⟩
    simp only [widthOf_congr h.wc, packLiterals_congr h.endian h.signed h.strict,
      appendRendered_congr_fields h.fmt h.upper]
    rfl
  | unpackop =>
    refine ⟨_, rfl, ?_⟩
    simp only [widthOf_congr h.wc, inputBytes_congr_infmt h.infmt,
      unpackLines_congr_fields h.endian h.signed h.lim]
    rfl
  | swapop =>
    refine ⟨_, rfl, ?_⟩
    simp only [widthOf_congr h.wc, h.signed, h.strict, appendRendered_congr_fields h.fmt h.upper]
    rfl
  | passop =>
    refine ⟨_, rfl, ?_⟩
    simp only [inputBytes_congr_infmt h.infmt, appendRendered_congr_fields h.fmt h.upper]
    rfl

end fields

/-- A command that takes a fault records its own word (R31). -/
theorem exec_fault_ecmd {i : Instr} {s t : State} (hf : s.faulted = false) (ht : t.faulted = true)
    (h : exec i s = .next t) : t.er.ecmd = encode i := by
  rcases exec_record_cases h with ⟨-, rfl⟩ | ⟨-, her | ⟨-, k, rfl, hk⟩⟩
  · simp at ht
  · rw [State.faulted_congr her, hf] at ht
    cases ht
  · exact hk

/-- The outcome with the other setting: the same state, but for the command word a fault records (R31, R86). -/
theorem exec_eq_of_agree {c : Command} {f g : Fields} {s t : State} (h : AgreeOnUsed c f g)
    (hx : exec (c.instr f) s = .next t) :
    exec (c.instr g) s = .next (if s.faulted = false ∧ t.faulted = true then
        { t with er := { t.er with ecmd := encode (c.instr g) } } else t) := by
  obtain rfl | hc := eq_or_ne c .clr
  · cases hx
    simp [Command.instr, execClr_eq]
  obtain ⟨r, hrf, hrg⟩ := exec_eq_runCommand_of_agree hc h s
  rw [hrf] at hx
  rcases runCommand_cases hx with ⟨hf, rfl⟩ | ⟨hf, rfl⟩ | ⟨hf, k, rfl, rfl⟩
  · rw [hrg, runCommand_faulted r hf, if_neg (by simp [hf])]
  · have hg : exec (c.instr g) s = .next t := hrg.trans (runCommand_ok t hf)
    split
    · rename_i ht
      rw [hg, ← exec_fault_ecmd hf ht.2 hg]
    · exact hg
  · have hg := hrg.trans (runCommand_error k hf)
    have hecmd : k.ecmd (encode (c.instr g)) = encode (c.instr g) :=
      exec_fault_ecmd hf (State.raise_faulted ..) hg
    rw [hg, if_pos ⟨hf, State.raise_faulted ..⟩]
    simp [State.raise, CoreFault.record, hecmd]

/-! ### The assembler -/

@[simp] theorem agreeOn_refl (f : Fields) (n : FieldName) : agreeOn f f n = true := by
  cases n <;> simp [agreeOn]

theorem agreeOn_trans {f g h : Fields} {n : FieldName} (h1 : agreeOn f g n = true)
    (h2 : agreeOn g h n = true) : agreeOn f h n = true := by
  cases n <;> simp_all [agreeOn]

/-- A modifier leaves every field but its own alone (R90). -/
theorem Modifier.agreeOn_set {m : Modifier} {n : FieldName} (hn : m.field ≠ n) (f : Fields) :
    agreeOn (m.set f) f n = true := by
  cases m <;> cases n <;> simp_all [Modifier.field, Modifier.set, agreeOn]

/-- The value a modifier writes does not depend on the other fields (R90). -/
theorem Modifier.agreeOn_set_set (m : Modifier) (f g : Fields) :
    agreeOn (m.set f) (m.set g) m.field = true := by
  cases m <;> exact beq_self_eq_true _

/-- A field no modifier of the line names keeps its value (R90). -/
theorem agreeOn_foldl_of_not_mem {ms : List Modifier} {n : FieldName} (hn : n ∉ ms.map Modifier.field)
    (f : Fields) : agreeOn (ms.foldl Modifier.set f) f n = true := by
  induction ms generalizing f with
  | nil => exact agreeOn_refl f n
  | cons m ms ih =>
    rw [List.map_cons, List.mem_cons, not_or] at hn
    obtain ⟨hm, hms⟩ := hn
    exact agreeOn_trans (ih hms (m.set f)) (Modifier.agreeOn_set (Ne.symm hm) f)

/-- A field named once takes the value of the modifier that names it (R90). -/
theorem agreeOn_foldl_of_mem {ms : List Modifier} {m : Modifier} (hnd : (ms.map Modifier.field).Nodup)
    (hm : m ∈ ms) (f g : Fields) : agreeOn (ms.foldl Modifier.set f) (m.set g) m.field = true := by
  induction ms generalizing f with
  | nil => cases hm
  | cons m' ms ih =>
    rw [List.map_cons, List.nodup_cons] at hnd
    obtain ⟨hnot, hnd⟩ := hnd
    rcases List.mem_cons.mp hm with rfl | hm
    · exact agreeOn_trans (agreeOn_foldl_of_not_mem hnot (m.set f)) (m.agreeOn_set_set f g)
    · exact ih hnd hm (m'.set f)

/-- Every modifier leaves a valid width code (R84, R90). -/
theorem widthCodeValid_foldl (ms : List Modifier) {f : Fields} (hf : f.widthCodeValid = true) :
    (ms.foldl Modifier.set f).widthCodeValid = true := by
  induction ms generalizing f with
  | nil => exact hf
  | cons m ms ih =>
    refine ih ?_
    cases m with
    | width w => cases w <;> rfl
    | _ => exact hf

theorem wellFormed_of_widthCodeValid {f : Fields} (hf : f.widthCodeValid = true) (c : Command) :
    (c.instr f).wellFormed = true := by
  cases c <;> simp [Command.instr, Instr.wellFormed, hf]

@[simp] theorem ofCode_widthCode (w : Width) : Width.ofCode (widthCode w) = some w := by
  cases w <;> rfl

/-! #### Which modifiers name a field -/

section modifiers
variable (m : Modifier)

theorem Modifier.field_eq_wc : m.field = .wc ↔ ∃ w, m = .width w := by
  cases m <;> simp [Modifier.field]

theorem Modifier.field_eq_endian : m.field = .endian ↔ ∃ e, m = .order e := by
  cases m <;> simp [Modifier.field]

theorem Modifier.field_eq_signed : m.field = .signed ↔ ∃ b, m = .sign b := by
  cases m <;> simp [Modifier.field]

theorem Modifier.field_eq_strict : m.field = .strict ↔ ∃ b, m = .policy b := by
  cases m <;> simp [Modifier.field]

theorem Modifier.field_eq_fmt : m.field = .fmt ↔ ∃ x, m = .format x := by
  cases m <;> simp [Modifier.field]

theorem Modifier.field_eq_upper : m.field = .upper ↔ ∃ b, m = .letters b := by
  cases m <;> simp [Modifier.field]

theorem Modifier.field_eq_infmt : m.field = .infmt ↔ ∃ x, m = .input x := by
  cases m <;> simp [Modifier.field]

theorem Modifier.field_eq_lim : m.field = .lim ↔ m = .lim := by
  cases m <;> simp [Modifier.field]

end modifiers

section named
variable {α : Type} {ms : List Modifier} {n : FieldName} {mk : α → Modifier}

/-- A line names a field exactly when it holds a modifier of the kind `mk` that sets it. -/
theorem mem_map_field_iff (hmk : ∀ m : Modifier, m.field = n ↔ ∃ a, m = mk a) :
    n ∈ ms.map Modifier.field ↔ ∃ a, mk a ∈ ms := by
  simp only [List.mem_map, hmk]
  constructor
  · rintro ⟨m, hm, a, rfl⟩
    exact ⟨a, hm⟩
  · rintro ⟨a, ha⟩
    exact ⟨mk a, ha, a, rfl⟩

/-- What a line makes of one field (R90): the value its modifier writes, or else 0. -/
theorem field_of_modifiers (hmk : ∀ m : Modifier, m.field = n ↔ ∃ a, m = mk a)
    (hnd : (ms.map Modifier.field).Nodup) {P : α → Prop} {Q : Prop}
    (hP : ∀ a, agreeOn (ms.foldl Modifier.set zeroFields) ((mk a).set zeroFields) n = true → P a)
    (hQ : agreeOn (ms.foldl Modifier.set zeroFields) zeroFields n = true → Q) :
    (∀ a, mk a ∈ ms → P a) ∧ ((∀ a, mk a ∉ ms) → Q) := by
  refine ⟨fun a ha => hP a ?_, fun hno => hQ (agreeOn_foldl_of_not_mem ?_ zeroFields)⟩
  · have hn : (mk a).field = n := (hmk _).mpr ⟨a, rfl⟩
    exact hn ▸ agreeOn_foldl_of_mem hnd ha zeroFields zeroFields
  · rw [mem_map_field_iff hmk]
    exact fun ⟨a, ha⟩ => hno a ha

end named

/-- `LIM` is 1 exactly when the modifier stands on the line (R90). -/
theorem lim_foldl_set {ms : List Modifier} (hnd : (ms.map Modifier.field).Nodup) :
    (ms.foldl Modifier.set zeroFields).lim = decide (.lim ∈ ms) := by
  by_cases h : .lim ∈ ms
  · rw [decide_eq_true h]
    exact eq_of_beq (agreeOn_foldl_of_mem hnd h zeroFields zeroFields)
  · rw [decide_eq_false h]
    refine eq_of_beq (agreeOn_foldl_of_not_mem (n := .lim) ?_ zeroFields)
    simpa [Modifier.field_eq_lim] using h

/-! #### Lines in order -/

/-- The modifiers that may stand on a line (R86, R90; the byte order of SWAPOP: log 16). -/
def Command.MayStand (c : Command) (m : Modifier) : Prop :=
  m.field ∈ c.usedFields ∨ (c = .swapop ∧ m.field = .endian)

/-- Every modifier that a line needs is written (R90). -/
def Command.Complete (c : Command) (ms : List Modifier) : Prop :=
  (c ∈ [Command.pack, .unpack, .packop, .unpackop, .swapop] → ∃ w, .width w ∈ ms) ∧
  (c ∈ [Command.render, .packop, .swapop, .passop] → ∃ x, .format x ∈ ms) ∧
  (c ∈ [Command.unpackop, .passop] → ∃ x, .input x ∈ ms)

/-- What may stand on a line is what the assembler's table of writable fields lists (R86, R90). -/
theorem mayStand_iff (c : Command) (m : Modifier) : c.MayStand m ↔ m.field ∈ c.writableFields := by
  cases c with
  | swapop => simp [Command.MayStand, Command.writableFields, or_comm]
  | _ => simp [Command.MayStand, Command.writableFields]

/-- What a line needs is what the assembler's table of required fields lists (R90). -/
theorem complete_iff (c : Command) (ms : List Modifier) :
    c.Complete ms ↔ ∀ n ∈ c.requiredFields, n ∈ ms.map Modifier.field := by
  rw [Command.Complete, ← mem_map_field_iff Modifier.field_eq_wc, ← mem_map_field_iff Modifier.field_eq_fmt,
    ← mem_map_field_iff Modifier.field_eq_infmt]
  cases c <;> simp [Command.requiredFields]

theorem accepts_iff (c : Command) (ms : List Modifier) :
    c.accepts ms = true ↔
      (∀ m ∈ ms, c.MayStand m) ∧ (ms.map Modifier.field).Nodup ∧ c.Complete ms := by
  simp only [Command.accepts, Bool.and_eq_true, List.all_eq_true, List.contains_iff_mem, decide_eq_true_eq,
    mayStand_iff, complete_iff, and_assoc]

theorem assemble_eq_some_iff {c : Command} {ms : List Modifier} {d : Word} :
    c.assemble ms = some d ↔
      c.accepts ms = true ∧ encode (c.instr (ms.foldl Modifier.set zeroFields)) = d := by
  rw [Command.assemble, Option.ite_none_right_eq_some, Option.some.injEq]

theorem assemble_eq_none_iff {c : Command} {ms : List Modifier} :
    c.assemble ms = none ↔ ¬ c.accepts ms = true := by
  simp [Command.assemble]

/-- Which lines are errors and which are accepted (R90; log 16). -/
theorem assemble_cases (c : Command) (ms : List Modifier) :
    ((∃ m ∈ ms, ¬ c.MayStand m) → c.assemble ms = none) ∧
    (¬ c.Complete ms → c.assemble ms = none) ∧
    ((∀ m ∈ ms, c.MayStand m) → c.Complete ms → (ms.map Modifier.field).Nodup →
      ∃ d, c.assemble ms = some d) := by
  rw [assemble_eq_none_iff, accepts_iff]
  refine ⟨?_, ?_, ?_⟩
  · rintro ⟨m, hm, hno⟩ ⟨hstand, -, -⟩
    exact hno (hstand m hm)
  · rintro hno ⟨-, -, hcomplete⟩
    exact hno hcomplete
  · intro hstand hcomplete hnd
    exact ⟨_, assemble_eq_some_iff.mpr ⟨(accepts_iff c ms).mpr ⟨hstand, hnd, hcomplete⟩, rfl⟩⟩

/-! #### Width shorthands -/

/-- A line whose mnemonic stands for another mnemonic with one modifier before the others (R91). -/
theorem assembleLine_short {name long w : String} {short : Mnemonic} {c : Command} {m : Modifier}
    (hname : mnemonicNames.lookup name = some short)
    (hlong : mnemonicNames.lookup long = some (.command c))
    (hw : modifierNames.lookup w = some m) (hshort : ∀ ms, short.assemble ms = c.assemble (m :: ms))
    (mods : List String) : assembleLine (name :: mods) = assembleLine (long :: w :: mods) := by
  rw [assembleLine, assembleLine, List.mapM_cons, hname, hlong, hw]
  simp only [Option.bind_eq_bind, Option.bind_some, Option.bind_assoc, hshort]
  rfl

/-- The five widths as the assembler's shorthands and modifiers write them (R91). -/
theorem shorthand_names {k : Nat} {w : String}
    (h : [(8, "w8"), (16, "w16"), (32, "w32"), (64, "w64"), (128, "w128")].lookup k = some w) :
    ∃ x, modifierNames.lookup w = some (.width x) ∧
      mnemonicNames.lookup ("PACKOP" ++ toString k) = some (.packopShort x) ∧
      mnemonicNames.lookup ("UNPACKOP" ++ toString k) = some (.unpackopShort x) := by
  obtain ⟨l₁, l₂, hl, -⟩ := List.lookup_eq_some_iff.mp h
  have hmem : (k, w) ∈ [(8, "w8"), (16, "w16"), (32, "w32"), (64, "w64"), (128, "w128")] := hl ▸ by simp
  simp only [List.mem_cons, List.not_mem_nil, or_false, Prod.mk.injEq] at hmem
  rcases hmem with ⟨rfl, rfl⟩ | ⟨rfl, rfl⟩ | ⟨rfl, rfl⟩ | ⟨rfl, rfl⟩ | ⟨rfl, rfl⟩
  · exact ⟨.w8, by decide +kernel⟩
  · exact ⟨.w16, by decide +kernel⟩
  · exact ⟨.w32, by decide +kernel⟩
  · exact ⟨.w64, by decide +kernel⟩
  · exact ⟨.w128, by decide +kernel⟩

end Sys2Proof.Machine

/-! ### The statements of 30_encoding -/

section
open Sys2Proof Sys2Proof.Machine

/-- Settles O1: reserved bits, opcode and fields of the command's word are those of the command, and its width code
is valid. -/
theorem decodeOfEncodeIsIdentity : Obligations.DecodeOfEncodeIsIdentity := by
  unfold Obligations.DecodeOfEncodeIsIdentity
  exact fun _ => decode_encode

/-- Settles O2: decoding drops no bit, and it is the width test that lets the word through. -/
theorem encodeOfDecodeIsIdentity : Obligations.EncodeOfDecodeIsIdentity := by
  unfold Obligations.EncodeOfDecodeIsIdentity
  exact fun d i h => ⟨wellFormed_of_decode h, encode_of_decode h⟩

/-- Settles O3: the concatenation of the fields and the OR of the shifted fields agree at every bit. -/
theorem commandWordIsOrOfFields : Obligations.CommandWordIsOrOfFields := by
  unfold Obligations.CommandWordIsOrOfFields
  exact fun i => encodeWord_eq_or i.opcode i.fields

/-- Settles O4: the match test says that the reserved bits are zero and the opcode is the command's, which leaves the
width code. -/
theorem matchTestSelectsCommand : Obligations.MatchTestSelectsCommand := by
  unfold Obligations.MatchTestSelectsCommand
  refine ⟨fun f => rfl, fun d i h => matchTest_iff.mpr (decode_reserved_opcode h), fun d c h => ?_⟩
  obtain ⟨hres, hop⟩ := matchTest_iff.mp h
  rw [decode_of_opcode hres hop]
  split
  · exact .inl rfl
  · exact .inr rfl

/-- Settles O5, by the order of R81: reserved bits, opcode, width code. -/
theorem everyCommandWordExecutesOrFaults : Obligations.EveryCommandWordExecutesOrFaults := by
  unfold Obligations.EveryCommandWordExecutesOrFaults
  intro s d hf reserved op wc usesWidth usesNoWidth
  have hfault : ∀ e, decode d = .error e → perform (.regWrite 0 d) s = .next (s.raise d (decodeFault e)) :=
    fun e he => by rw [perform_cmd, writeCmd_of_error he, gated_of_not_faulted _ hf]
  have hexec : ∀ c : Command, (c.instr (Fields.ofWord d)).opcode = op → reserved = 0 →
      (c.instr (Fields.ofWord d)).wellFormed = true → ∃ i, decode d = .ok i ∧ i.opcode = op ∧
        i.fields = Fields.ofWord d ∧ perform (.regWrite 0 d) s = exec i s := fun c hop hres hwf => by
    have hdec := decode_of_opcode hres hop.symm
    rw [if_pos hwf] at hdec
    exact ⟨_, hdec, hop, c.fields_instr _, (perform_cmd d s).trans (writeCmd_of_decode hdec s)⟩
  refine ⟨?_, fun hres hop hwc => ?_, ?_⟩
  · rintro (hres | hop)
    · exact hfault _ (decode_of_reserved hres)
    · exact hfault _ (decode_of_reserved_opcode hop)
  · obtain ⟨c, hc⟩ := exists_width_command hop
    obtain ⟨hcop, hwf⟩ := hc (Fields.ofWord d)
    have hinvalid : (c.instr (Fields.ofWord d)).wellFormed = false :=
      hwf.trans (decide_eq_false (Nat.not_le.mpr hwc))
    exact hfault .unsupportedWidth ((decode_of_opcode hres hcop.symm).trans (if_neg (by simp [hinvalid])))
  · rintro hres (⟨hop, hwc⟩ | hop)
    · obtain ⟨c, hc⟩ := exists_width_command hop
      obtain ⟨hcop, hwf⟩ := hc (Fields.ofWord d)
      exact hexec c hcop hres (hwf.trans (decide_eq_true hwc))
    · obtain ⟨c, hc⟩ := exists_widthless_command hop
      obtain ⟨hcop, hwf⟩ := hc (Fields.ofWord d)
      exact hexec c hcop hres hwf

/-- Settles O7: the two settings compute the same, and a fault records the command's own word. -/
theorem ignoredFieldsHaveNoEffect : Obligations.IgnoredFieldsHaveNoEffect := by
  unfold Obligations.IgnoredFieldsHaveNoEffect
  exact fun c f g s t h => exec_eq_of_agree h

/-- Settles O8: a modifier writes its own field alone, so a line that names no field twice gives each field the value
it names; the word then decodes because every width the assembler writes is valid. -/
theorem assembledLinesDecode : Obligations.AssembledLinesDecode := by
  unfold Obligations.AssembledLinesDecode
  refine ⟨fun c ms d h => ?_, assemble_cases, fun mods k w h => ?_, by decide +kernel⟩
  · obtain ⟨hacc, rfl⟩ := assemble_eq_some_iff.mp h
    obtain ⟨-, hnd, -⟩ := (accepts_iff c ms).mp hacc
    have hvalid := widthCodeValid_foldl ms (f := zeroFields) rfl
    refine ⟨ms.foldl Modifier.set zeroFields, decode_encode (wellFormed_of_widthCodeValid hvalid c), rfl,
      ?_, ?_, ?_, ?_, ?_, ?_, ?_, lim_foldl_set hnd⟩
    · refine field_of_modifiers Modifier.field_eq_wc hnd (fun w hw => ?_) eq_of_beq
      rw [eq_of_beq hw]
      exact ofCode_widthCode w
    · exact field_of_modifiers Modifier.field_eq_endian hnd (fun _ => eq_of_beq) eq_of_beq
    · exact field_of_modifiers Modifier.field_eq_signed hnd (fun _ => eq_of_beq) eq_of_beq
    · exact field_of_modifiers Modifier.field_eq_strict hnd (fun _ => eq_of_beq) eq_of_beq
    · exact field_of_modifiers Modifier.field_eq_fmt hnd (fun _ => eq_of_beq) eq_of_beq
    · exact field_of_modifiers Modifier.field_eq_upper hnd (fun _ => eq_of_beq) eq_of_beq
    · exact field_of_modifiers Modifier.field_eq_infmt hnd (fun _ => eq_of_beq) eq_of_beq
  · obtain ⟨x, hw, hpack, hunpack⟩ := shorthand_names h
    exact ⟨assembleLine_short hpack rfl hw (fun _ => rfl) mods,
      assembleLine_short hunpack rfl hw (fun _ => rfl) mods⟩

/-- Settles O6, by evaluating the decoder on each word. -/
theorem workedEncodingsDecode : Obligations.WorkedEncodingsDecode := by
  unfold Obligations.WorkedEncodingsDecode
  decide

end

/-! ## The Scalar Codec: PACK and UNPACK

Both byte orders are read through the little-endian one, where splitting and joining are a recursion over the bytes
and inverse to each other; the round trips of 40_scalar_codec and the two commands follow. -/

namespace Sys2Proof.Machine

/-! ### Bytes least-significant first -/

/-- The bytes `b`, which stand in the order `e`, least-significant byte first (R104, R119). -/
def littleOrder (e : Endian) (b : List Byte) : List Byte := if e = .little then b else b.reverse

@[simp] theorem littleOrder_little (b : List Byte) : littleOrder .little b = b := rfl

@[simp] theorem littleOrder_big (b : List Byte) : littleOrder .big b = b.reverse := rfl

@[simp] theorem littleOrder_littleOrder (e : Endian) (b : List Byte) : littleOrder e (littleOrder e b) = b := by
  cases e <;> simp

@[simp] theorem length_littleOrder (e : Endian) (b : List Byte) : (littleOrder e b).length = b.length := by
  cases e <;> simp

/-- A big-endian split is the little-endian one reversed: index `i` has the weight of index `n-1-i` (R104). -/
theorem splitBytes_eq_littleOrder (e : Endian) (n m : Nat) :
    splitBytes e n m = littleOrder e (splitBytes .little n m) := by
  cases e with
  | little => rfl
  | big =>
    refine List.ext_getElem (by simp) fun i _ _ => ?_
    simp [splitBytes, byteWeight]

/-- A big-endian join is the little-endian one of the reversed bytes (R108). -/
theorem joinBytes_eq_littleOrder (e : Endian) (b : List Byte) :
    joinBytes e b.length b = joinBytes .little b.length (littleOrder e b) := by
  cases e with
  | little => rfl
  | big =>
    calc joinBytes .big b.length b
      _ = ∑ i ∈ Finset.range b.length, (b.getD i 0).toNat * 2 ^ (8 * (b.length - 1 - i)) := rfl
      _ = ∑ i ∈ Finset.range b.length, (b.reverse.getD i 0).toNat * 2 ^ (8 * i) := by
        rw [← Finset.sum_range_reflect]
        refine Finset.sum_congr rfl fun i hi => ?_
        have hlt : i < b.length := Finset.mem_range.mp hi
        have hback : b.length - 1 - (b.length - 1 - i) = i := by omega
        have hlt' : b.length - 1 - i < b.length := by omega
        simp [hback, hlt, hlt']
      _ = joinBytes .little b.length b.reverse := rfl

theorem two_pow_bits_succ (n : Nat) : 2 ^ (8 * (n + 1)) = 256 * 2 ^ (8 * n) := by ring

theorem splitBytes_little_succ (n m : Nat) :
    splitBytes .little (n + 1) m = BitVec.ofNat 8 m :: splitBytes .little n (m / 256) := by
  have hdiv : ∀ i, m / 2 ^ (8 * (i + 1)) = m / 256 / 2 ^ (8 * i) := fun i => by
    rw [Nat.div_div_eq_div_mul, two_pow_bits_succ]
  simp [splitBytes, byteWeight, List.range_succ_eq_map, Function.comp_def, hdiv]

theorem joinBytes_little_cons (n : Nat) (x : Byte) (b : List Byte) :
    joinBytes .little (n + 1) (x :: b) = x.toNat + 256 * joinBytes .little n b := by
  simp [joinBytes, byteWeight, List.range_succ_eq_map, Function.comp_def, two_pow_bits_succ,
    ← List.sum_map_mul_left, Nat.mul_left_comm]

/-- Stage 1 of `unpack` is the value of the bytes, least-significant first (R108). -/
theorem joinBytes_eq_littleValue (e : Endian) {n : Nat} {b : List Byte} (h : b.length = n) :
    joinBytes e n b = littleValue (littleOrder e b) := by
  have hlittle : ∀ c : List Byte, joinBytes .little c.length c = littleValue c := fun c => by
    induction c with
    | nil => rfl
    | cons x c ih => rw [List.length_cons, joinBytes_little_cons, ih, littleValue]
  rw [← h, joinBytes_eq_littleOrder, ← length_littleOrder e b, hlittle]

theorem littleValue_lt (b : List Byte) : littleValue b < 2 ^ (8 * b.length) := by
  induction b with
  | nil => simp [littleValue]
  | cons x b ih =>
    have hx : x.toNat < 2 ^ 8 := x.isLt
    rw [littleValue, List.length_cons, two_pow_bits_succ]
    omega

/-- Splitting into `n` bytes keeps the residue modulo `2^(8n)`. -/
theorem littleValue_splitBytes_little (n m : Nat) : littleValue (splitBytes .little n m) = m % 2 ^ (8 * n) := by
  induction n generalizing m with
  | zero => simp [splitBytes, littleValue, Nat.mod_one]
  | succ n ih =>
    rw [splitBytes_little_succ, littleValue, ih, BitVec.toNat_ofNat, two_pow_bits_succ, Nat.mod_mul]

theorem splitBytes_little_littleValue (b : List Byte) : splitBytes .little b.length (littleValue b) = b := by
  induction b with
  | nil => rfl
  | cons x b ih =>
    have hdiv : (x.toNat + 256 * littleValue b) / 256 = littleValue b := by
      have := x.isLt
      omega
    have hmod : BitVec.ofNat 8 (x.toNat + 256 * littleValue b) = x := by
      apply BitVec.eq_of_toNat_eq
      have := x.isLt
      rw [BitVec.toNat_ofNat]
      omega
    rw [List.length_cons, splitBytes_little_succ, littleValue, hdiv, hmod, ih]

/-- The bytes `pack` makes of a magnitude spell its residue, in either order (R104). -/
theorem littleValue_splitBytes (e : Endian) (n m : Nat) :
    littleValue (littleOrder e (splitBytes e n m)) = m % 2 ^ (8 * n) := by
  rw [splitBytes_eq_littleOrder, littleOrder_littleOrder, littleValue_splitBytes_little]

/-- Bytes are those of the value they spell, in either order. -/
theorem splitBytes_littleValue (e : Endian) {n : Nat} {b : List Byte} (h : b.length = n) :
    splitBytes e n (littleValue (littleOrder e b)) = b := by
  rw [splitBytes_eq_littleOrder, ← h, ← length_littleOrder e b, splitBytes_little_littleValue,
    littleOrder_littleOrder]

/-! ### The magnitude and the scalar it stands for -/

theorem maskedMagnitude_cast (v : Int) (w : Width) : (maskedMagnitude v w : Int) = v % (modulus w : Int) :=
  Int.toNat_of_nonneg (Int.emod_nonneg v (by exact_mod_cast (modulus_pos w).ne'))

theorem maskedMagnitude_lt (v : Int) (w : Width) : maskedMagnitude v w < modulus w := by
  have := Int.emod_lt_of_pos v (b := modulus w) (by exact_mod_cast modulus_pos w)
  have := maskedMagnitude_cast v w
  omega

theorem littleValue_lt_modulus {b : List Byte} {w : Width} (e : Endian) (h : b.length = w.bytes) :
    littleValue (littleOrder e b) < modulus w := by
  have := littleValue_lt (littleOrder e b)
  rwa [length_littleOrder, h] at this

/-- Stage 2 of `unpack` (R109): the scalar the magnitude `m` stands for. -/
def scalarOf (w : Width) (sg : Bool) (m : Nat) : Int :=
  if sg = true ∧ halfModulus w ≤ m then (m : Int) - (modulus w : Int) else (m : Int)

@[simp] theorem scalarOf_unsigned (w : Width) (m : Nat) : scalarOf w false m = m := rfl

theorem scalarOf_signed (w : Width) (m : Nat) :
    scalarOf w true m = if halfModulus w ≤ m then (m : Int) - (modulus w : Int) else (m : Int) := by
  simp [scalarOf]

/-- `unpack` of `width_bytes` bytes is the scalar of the value they spell (R108, R109). -/
theorem unpack_eq_scalarOf {b : List Byte} {w : Width} (e : Endian) (sg : Bool) (h : b.length = w.bytes) :
    unpack b w e sg = scalarOf w sg (littleValue (littleOrder e b)) := by
  simp [unpack, scalarOf, joinBytes_eq_littleValue e h]

theorem inRange_unsigned_iff {v : Int} {w : Width} :
    inRange v w false ↔ 0 ≤ v ∧ v ≤ (modulus w : Int) - 1 := Iff.rfl

theorem inRange_signed_iff {v : Int} {w : Width} :
    inRange v w true ↔ -(halfModulus w : Int) ≤ v ∧ v ≤ (halfModulus w : Int) - 1 := Iff.rfl

/-- The scalar of a magnitude is in the strict range of its width and signedness (R101). -/
theorem inRange_scalarOf {w : Width} (sg : Bool) {m : Nat} (h : m < modulus w) : inRange (scalarOf w sg m) w sg := by
  have hhalf := modulus_eq w
  cases sg with
  | false =>
    rw [inRange_unsigned_iff, scalarOf_unsigned]
    omega
  | true =>
    rw [inRange_signed_iff, scalarOf_signed]
    split <;> omega

/-- The scalar of a magnitude has that magnitude. -/
theorem maskedMagnitude_scalarOf {w : Width} (sg : Bool) {m : Nat} (h : m < modulus w) :
    maskedMagnitude (scalarOf w sg m) w = m := by
  have hmod : (m : Int) % (modulus w : Int) = m := Int.emod_eq_of_lt (by omega) (by omega)
  unfold maskedMagnitude scalarOf
  split
  · rw [Int.sub_emod_right, hmod, Int.toNat_natCast]
  · rw [hmod, Int.toNat_natCast]

theorem scalarOf_maskedMagnitude_unsigned (v : Int) (w : Width) :
    scalarOf w false (maskedMagnitude v w) = v % (modulus w : Int) :=
  maskedMagnitude_cast v w

/-- The signed scalar of a residue is the representative in `[-2^(bits-1), 2^(bits-1))` (R116). -/
theorem scalarOf_maskedMagnitude_signed (v : Int) (w : Width) :
    scalarOf w true (maskedMagnitude v w) =
      (v + (halfModulus w : Int)) % (modulus w : Int) - (halfModulus w : Int) := by
  have hhalf := modulus_eq w
  have hlt := maskedMagnitude_lt v w
  rw [← Int.emod_add_emod, ← maskedMagnitude_cast v, scalarOf_signed]
  generalize maskedMagnitude v w = m at hlt
  split
  · have hwrap : ((m : Int) + halfModulus w) % (modulus w : Int) = (m : Int) + halfModulus w - modulus w := by
      rw [← Int.sub_emod_right]
      exact Int.emod_eq_of_lt (by omega) (by omega)
    omega
  · have hstay : ((m : Int) + halfModulus w) % (modulus w : Int) = (m : Int) + halfModulus w :=
      Int.emod_eq_of_lt (by omega) (by omega)
    omega

/-! ### What `pack` gives and what it raises -/

/-- The check of `pack` lets a value through when the mode is truncating or the value is in range (R102). -/
theorem packCheck_ok_iff {v : Int} {w : Width} {sg st : Bool} :
    packCheck v w sg st = .ok () ↔ (st = true → inRange v w sg) := by
  cases st with
  | false => simp [packCheck_truncating]
  | true =>
    cases sg with
    | false => exact packCheck_unsigned_ok_iff.trans (by simp [inRange_unsigned_iff])
    | true => exact packCheck_signed_ok_iff.trans (by simp [inRange_signed_iff])

theorem pack_eq_ok {v : Int} {w : Width} (e : Endian) {sg st : Bool} (h : st = true → inRange v w sg) :
    pack v w e sg st = .ok (splitBytes e w.bytes (maskedMagnitude v w)) :=
  pack_ok_iff.mpr ⟨packCheck_ok_iff.mpr h, rfl⟩

/-- A value that strict mode refuses raises one of the two faults of R102. -/
theorem pack_of_not_inRange {v : Int} {w : Width} (e : Endian) {sg : Bool} (h : ¬ inRange v w sg) :
    (sg = false ∧ v < 0 ∧ pack v w e sg true = .error (.signError v w.bits)) ∨
      ((sg = true ∨ 0 ≤ v) ∧ pack v w e sg true = .error (.rangeError v w.bits)) := by
  cases hp : pack v w e sg true with
  | ok b =>
    obtain ⟨hcheck, -⟩ := pack_ok_iff.mp hp
    exact absurd (packCheck_ok_iff.mp hcheck rfl) h
  | error k =>
    obtain ⟨-, ⟨hsg, hv, rfl⟩ | ⟨hv, rfl⟩⟩ := packCheck_error (pack_error_iff.mp hp)
    · exact .inl ⟨hsg, hv, rfl⟩
    · exact .inr ⟨hv, rfl⟩

/-- Strict unsigned `pack` of a negative value (R102, R223). -/
theorem pack_eq_signError {v : Int} (w : Width) (e : Endian) (h : v < 0) :
    pack v w e false true = .error (.signError v w.bits) := by
  have hr : ¬ inRange v w false := by
    rw [inRange_unsigned_iff]
    omega
  obtain ⟨-, -, hp⟩ | ⟨hv, -⟩ := pack_of_not_inRange e hr
  · exact hp
  · exact absurd (hv.resolve_left nofun) (not_le.mpr h)

/-- Strict `pack` of any other value out of range (R102, R222). -/
theorem pack_eq_rangeError {v : Int} {w : Width} (e : Endian) {sg : Bool} (h : ¬ inRange v w sg)
    (hv : sg = true ∨ 0 ≤ v) : pack v w e sg true = .error (.rangeError v w.bits) := by
  obtain ⟨rfl, hneg, -⟩ | ⟨-, hp⟩ := pack_of_not_inRange e h
  · exact absurd (hv.resolve_left nofun) (not_le.mpr hneg)
  · exact hp

/-- A `pack` that gives bytes gives `width_bytes` bytes that spell the value's residue (R103 to R105). -/
theorem pack_ok_spells {v : Int} {w : Width} {e : Endian} {sg st : Bool} {b : List Byte}
    (h : pack v w e sg st = .ok b) :
    b.length = w.bytes ∧ littleValue (littleOrder e b) = maskedMagnitude v w := by
  obtain ⟨-, rfl⟩ := pack_ok_iff.mp h
  exact ⟨splitBytes_length .., (littleValue_splitBytes ..).trans (Nat.mod_eq_of_lt (maskedMagnitude_lt v w))⟩

theorem unpack_of_pack {v : Int} {w : Width} {e : Endian} {sg st : Bool} {b : List Byte}
    (h : pack v w e sg st = .ok b) (sg' : Bool) : unpack b w e sg' = scalarOf w sg' (maskedMagnitude v w) := by
  obtain ⟨hlen, hval⟩ := pack_ok_spells h
  rw [unpack_eq_scalarOf e sg' hlen, hval]

/-- The range of every width lies in the scalar domain (R21, R101). -/
theorem inRange_bounds {v : Int} {w : Width} {sg : Bool} (h : inRange v w sg) : smin ≤ v ∧ v ≤ smax := by
  have hmod : (modulus w : Int) ≤ (2 ^ 128 : Nat) := by
    exact_mod_cast Nat.pow_le_pow_right (by omega) w.bits_le
  have hhalf := modulus_eq w
  unfold smin smax
  cases sg with
  | false =>
    obtain ⟨hlow, hhigh⟩ := inRange_unsigned_iff.mp h
    omega
  | true =>
    obtain ⟨hlow, hhigh⟩ := inRange_signed_iff.mp h
    omega

/-! ### PACK and UNPACK at a width -/

theorem sat32_bits (w : Width) : sat32 w.bits = BitVec.ofNat 32 w.bits :=
  sat32_of_lt (w.bits_le.trans_lt (by decide))

section records
variable (s : State) (c : Word)

/-- The record of a SignError (R223, R226). -/
theorem State.raise_signError (v : Int) (w : Width) : s.raise c (.signError v w.bits) =
    s.withRecord 2 c (BitVec.ofNat 32 w.bits) 0 0 (BitVec.ofInt 129 v) := by
  rw [← sat32_bits]
  rfl

/-- The record of a RangeError (R222, R226). -/
theorem State.raise_rangeError (v : Int) (w : Width) : s.raise c (.rangeError v w.bits) =
    s.withRecord 1 c (BitVec.ofNat 32 w.bits) 0 0 (BitVec.ofInt 129 v) := by
  rw [← sat32_bits]
  rfl

/-- The record of a CapacityError that a command raises (R226, R231). -/
theorem State.raise_capacityError (needed free : Nat) : s.raise c (.capacityError needed free) =
    s.withRecord 9 c 0 (sat32 needed) (sat32 free) 0 := rfl

/-- The record of a LengthError (R226, R232). -/
theorem State.raise_lengthError (present required : Nat) : s.raise c (.lengthError present required) =
    s.withRecord 8 c 0 (sat32 present) (sat32 required) 0 := rfl

end records

theorem exec_pack_eq {f : Fields} {w : Width} (hw : Width.ofCode f.wc = some w) (s : State) :
    exec (.pack f) s = runCommand (.pack f) s (do
      let b ← pack s.val.toInt w f.endian f.signed f.strict
      roomFor s.bseq.length s.cfg.bseqCap w.bytes
      return s.withBseq (s.bseq ++ b)) := by
  change runCommand _ s (widthOf f >>= _) = _
  rw [widthOf_ok_iff.mpr hw, except_ok_bind]
  rfl

theorem exec_unpack_eq {f : Fields} {w : Width} (hw : Width.ofCode f.wc = some w) (s : State) :
    exec (.unpack f) s = runCommand (.unpack f) s
      (if s.bseq.length < w.bytes then .error (.lengthError s.bseq.length w.bytes)
      else .ok ((s.withBseq (s.bseq.drop w.bytes)).withVal
        (BitVec.ofInt 129 (unpack (s.bseq.take w.bytes) w f.endian f.signed)))) := by
  change runCommand _ s (widthOf f >>= _) = _
  rw [widthOf_ok_iff.mpr hw, except_ok_bind]
  rfl

end Sys2Proof.Machine

/-! ### The statements of 40_scalar_codec -/

section
open Sys2Proof Sys2Proof.Machine

/-- Settles O30: `width_bytes` bytes come out, and `bits` is eight times that. -/
theorem packLengthIsWidthBytes : Obligations.PackLengthIsWidthBytes := by
  unfold Obligations.PackLengthIsWidthBytes
  intro x w e sg st b h
  obtain ⟨hlen, -⟩ := pack_ok_spells h
  rw [hlen, w.bits_eq]
  omega

/-- Settles O31: the bytes spell the residue, and `unpack` reads its representative. -/
theorem unpackOfPackRoundTrips : Obligations.UnpackOfPackRoundTrips := by
  unfold Obligations.UnpackOfPackRoundTrips
  refine ⟨fun x w e sg st b h => ?_, fun x w e => ?_, fun x w e hr => ?_⟩
  · exact ⟨(unpack_of_pack h false).trans (scalarOf_maskedMagnitude_unsigned x w),
      (unpack_of_pack h true).trans (scalarOf_maskedMagnitude_signed x w)⟩
  · have hp := pack_eq_ok (v := x) (w := w) e (sg := false) (st := false) nofun
    exact ⟨_, hp, (unpack_of_pack hp false).trans (scalarOf_maskedMagnitude_unsigned x w)⟩
  · have hp := pack_eq_ok e (st := true) fun _ => hr
    refine ⟨_, hp, (unpack_of_pack hp true).trans ((scalarOf_maskedMagnitude_signed x w).trans ?_)⟩
    obtain ⟨hmin, hmax⟩ := inRange_signed_iff.mp hr
    have hhalf := modulus_eq w
    rw [Int.emod_eq_of_lt (by omega) (by omega)]
    omega

/-- Settles O32: both orders are the little-endian one read forwards or backwards, and the check does not look at the
order. -/
theorem endiannessReversesBytes : Obligations.EndiannessReversesBytes := by
  unfold Obligations.EndiannessReversesBytes
  refine ⟨fun x w sg st => ?_, fun b w sg h => ?_⟩
  · unfold pack
    rw [splitBytes_eq_littleOrder .big]
    cases packCheck x w sg st <;> rfl
  · have hrev : b.reverse.length = w.bytes := by rw [List.length_reverse, h]
    rw [unpack_eq_scalarOf .big sg h, unpack_eq_scalarOf .little sg hrev, littleOrder_big, littleOrder_little]

/-- Settles O33: the policy and the signedness decide the check, not the bytes. -/
theorem strictModeOnlyRejects : Obligations.StrictModeOnlyRejects := by
  unfold Obligations.StrictModeOnlyRejects
  refine ⟨fun x w e sg sg' b h => ?_, fun x w e => rfl⟩
  obtain ⟨-, rfl⟩ := pack_ok_iff.mp h
  exact pack_eq_ok e nofun

/-- Settles O34: an unpacked value is in the strict range, and its magnitude is the value its bytes spell. -/
theorem packOfUnpackIsIdentity : Obligations.PackOfUnpackIsIdentity := by
  unfold Obligations.PackOfUnpackIsIdentity
  intro b w e sg st h
  have hlt := littleValue_lt_modulus e h
  rw [unpack_eq_scalarOf e sg h, pack_eq_ok e fun _ => inRange_scalarOf sg hlt, maskedMagnitude_scalarOf sg hlt,
    splitBytes_littleValue e h]

/-- Settles O35: what `pack` of `VAL` raises, then the capacity test, then the bytes it gives. -/
theorem packCommand : Obligations.PackCommand := by
  unfold Obligations.PackCommand
  intro f s w hw hf
  have hval : BitVec.ofInt 129 s.val.toInt = s.val := BitVec.ofInt_toInt
  rw [exec_pack_eq hw]
  refine ⟨fun hst hsg hneg => ?_, fun hst hr hv => ?_, fun hr hfull => ?_, fun hr hroom => ?_⟩
  · rw [hst, hsg, pack_eq_signError w _ hneg, except_error_bind, runCommand_error _ hf, State.raise_signError, hval]
  · rw [hst, pack_eq_rangeError _ hr hv, except_error_bind, runCommand_error _ hf, State.raise_rangeError, hval]
  · rw [pack_eq_ok _ hr, except_ok_bind, roomFor_error_iff.mpr ⟨hfull, rfl⟩, except_error_bind,
      runCommand_error _ hf, State.raise_capacityError]
  · have hp := pack_eq_ok f.endian hr
    obtain ⟨hlen, hspell⟩ := pack_ok_spells hp
    refine ⟨_, ?_, hlen, (congrArg Nat.cast hspell).trans (maskedMagnitude_cast ..)⟩
    rw [hp, except_ok_bind, (roomFor_ok_iff (u := ())).mpr hroom, except_ok_bind]
    exact runCommand_ok _ hf

/-- Settles O36: the bytes taken are as many as the width, so their value is a scalar and `VAL` holds it. -/
theorem unpackCommand : Obligations.UnpackCommand := by
  unfold Obligations.UnpackCommand
  intro f s w hw hf
  rw [exec_unpack_eq hw]
  refine ⟨fun hshort => ?_, fun hlen => ?_⟩
  · rw [if_pos hshort, runCommand_error _ hf, State.raise_lengthError]
  · have htake : (s.bseq.take w.bytes).length = w.bytes := by rw [List.length_take, min_eq_left hlen]
    have hv := unpack_eq_scalarOf f.endian f.signed htake
    obtain ⟨hmin, hmax⟩ := inRange_bounds (inRange_scalarOf f.signed (littleValue_lt_modulus f.endian htake))
    rw [if_neg (by omega), hv]
    exact ⟨_, toInt_ofInt_scalar hmin hmax, runCommand_ok _ hf⟩

end

/-! ## The Hex Token Parser: tokens, `parse` and the commands that use it

How the tokens of a text follow its runs of non-separators, what `parse` makes of pairs of digits and of a rendering, and
where a parse stops; then the statements of 41_hex_token_parser. -/

namespace Sys2Proof.Machine

/-! ### Separators and digits -/

theorem isSep_iff {ws : List Byte} {c : Byte} : isSep ws c = true ↔
    (c ∈ ws ∧ c.toNat < 0x80) ∨ c = 0x3A ∨ c = 0x2C ∨ c = 0x2D ∨ c = 0x3B := by
  simp [isSep, isWhitespace, isDelimiter, or_assoc]

/-- The newline separates where `WS_SET` holds it (R131, R140). -/
theorem isSep_newline {ws : List Byte} (h : newline ∈ ws) : isSep ws newline = true :=
  isSep_iff.mpr (.inl ⟨h, by decide⟩)

theorem isDelimiter_of_ishex {c : Byte} (h : ishex c = true) : isDelimiter c = false := by
  revert c
  decide

/-- A hexadecimal digit separates nothing under the constraints of R6 on `WS_SET`. -/
theorem isSep_of_ishex {ws : List Byte} (hws : ∀ c ∈ ws, notWhitespace c = false) {c : Byte}
    (h : ishex c = true) : isSep ws c = false := by
  have hmem : c ∉ ws := fun hc => by simpa [notWhitespace, h] using hws c hc
  simp [isSep, isWhitespace, hmem, isDelimiter_of_ishex h]

theorem hexval_hexdigit {n : Nat} (h : n < 16) (upper : Bool) : hexval (hexdigit n upper) = some n := by
  revert n upper
  decide

theorem ishex_hexdigit {n : Nat} (h : n < 16) (upper : Bool) : ishex (hexdigit n upper) = true := by
  rw [ishex, hexval_hexdigit h, Option.isSome_some]

theorem ishex_of_hexval {c : Byte} {n : Nat} (h : hexval c = some n) : ishex c = true := by
  rw [ishex, h, Option.isSome_some]

theorem nibble_of_hexval {c : Byte} {n : Nat} (h : hexval c = some n) : nibble c = n := by
  rw [nibble, h, Option.getD_some]

/-! ### Runs of non-separators -/

section runs
variable {ws : List Byte}

/-- `tok` stands at index `i` of the text `t` as a non-empty run of non-separators that cannot be extended (R132). -/
def IsMaximalRun (ws t : List Byte) (i : Nat) (tok : List Byte) : Prop :=
  tok ≠ [] ∧ (∀ c ∈ tok, isSep ws c = false) ∧
    ∃ before after : List Byte, t = before ++ tok ++ after ∧ before.length = i ∧
      (∀ c ∈ before.getLast?, isSep ws c = true) ∧ (∀ c ∈ after.head?, isSep ws c = true)

/-- Every text is a run of non-separators, perhaps empty, in front of a separator or of its own end. -/
theorem exists_run_append (t : List Byte) : ∃ tok after : List Byte, t = tok ++ after ∧
    (∀ c ∈ tok, isSep ws c = false) ∧ ∀ c ∈ after.head?, isSep ws c = true := by
  induction t with
  | nil => exact ⟨[], [], rfl, nofun, nofun⟩
  | cons c t ih =>
    cases hc : isSep ws c with
    | true => exact ⟨[], c :: t, rfl, nofun, by simp [hc]⟩
    | false =>
      obtain ⟨tok, after, rfl, htok, hafter⟩ := ih
      exact ⟨c :: tok, after, rfl, by simpa [hc] using htok, hafter⟩

/-- A text is empty, or begins with a separator, or begins with a maximal run: induction along that division. -/
theorem text_induction {P : List Byte → Prop} (nil : P [])
    (sep : ∀ c t, isSep ws c = true → P t → P (c :: t))
    (run : ∀ tok after, tok ≠ [] → (∀ c ∈ tok, isSep ws c = false) →
      (∀ c ∈ after.head?, isSep ws c = true) → P after → P (tok ++ after))
    (t : List Byte) : P t := by
  induction h : t.length using Nat.strong_induction_on generalizing t with
  | _ n ih =>
    subst h
    cases t with
    | nil => exact nil
    | cons c t =>
      cases hc : isSep ws c with
      | true => exact sep c t hc (ih _ (by simp) t rfl)
      | false =>
        obtain ⟨tok, after, rfl, htok, hafter⟩ := exists_run_append (ws := ws) t
        exact run (c :: tok) after (by simp) (by simpa [hc] using htok) hafter (ih _ (by simp) after rfl)

/-- A run in front of a separator, or of the end of the text, is all that precedes the first separator. -/
theorem takeWhile_run {tok after : List Byte} (htok : ∀ c ∈ tok, isSep ws c = false)
    (hafter : ∀ c ∈ after.head?, isSep ws c = true) : (tok ++ after).takeWhile (fun c => !isSep ws c) = tok := by
  rw [List.takeWhile_append_of_pos fun c hc => by simp [htok c hc]]
  cases after with
  | nil => simp
  | cons c after => simp [hafter c rfl]

theorem not_isMaximalRun_nil (i : Nat) (tok : List Byte) : ¬ IsMaximalRun ws [] i tok := by
  rintro ⟨hne, -, before, after, ht, -⟩
  simp_all

/-- A separator in front moves every run by one place. -/
theorem isMaximalRun_cons_sep {c : Byte} {t : List Byte} (hc : isSep ws c = true) {i : Nat} {tok : List Byte} :
    IsMaximalRun ws (c :: t) i tok ↔ ∃ j, i = j + 1 ∧ IsMaximalRun ws t j tok := by
  constructor
  · rintro ⟨hne, htok, before, after, ht, rfl, hbefore, hafter⟩
    cases before with
    | nil =>
      obtain ⟨x, tok, rfl⟩ := List.exists_cons_of_ne_nil hne
      obtain ⟨rfl, -⟩ := List.cons.inj ht
      simp [hc] at htok
    | cons x before =>
      obtain ⟨rfl, rfl⟩ := List.cons.inj ht
      refine ⟨before.length, rfl, hne, htok, before, after, rfl, rfl, fun y hy => hbefore y ?_, hafter⟩
      simp_all [List.getLast?_cons]
  · rintro ⟨j, rfl, hne, htok, before, after, rfl, rfl, hbefore, hafter⟩
    refine ⟨hne, htok, c :: before, after, rfl, rfl, fun y hy => ?_, hafter⟩
    cases hlast : before.getLast? with
    | none => simp_all [List.getLast?_cons]
    | some z => exact hbefore y (by simp_all [List.getLast?_cons])

/-- A maximal run in front is one of the runs; the others stand in the rest of the text, moved by its length. -/
theorem isMaximalRun_append {tok after : List Byte} (hne : tok ≠ []) (htok : ∀ c ∈ tok, isSep ws c = false)
    (hafter : ∀ c ∈ after.head?, isSep ws c = true) {i : Nat} {tok' : List Byte} :
    IsMaximalRun ws (tok ++ after) i tok' ↔
      (i = 0 ∧ tok' = tok) ∨ ∃ j, i = tok.length + j ∧ IsMaximalRun ws after j tok' := by
  constructor
  · rintro ⟨hne', htok', before', after', ht, rfl, hbefore', hafter'⟩
    rw [List.append_assoc] at ht
    rcases List.append_eq_append_iff.mp ht with ⟨mid, rfl, rfl⟩ | ⟨mid, rfl, hmid⟩
    · exact .inr ⟨mid.length, by simp, hne', htok', mid, after', by simp, rfl,
        fun c hc => hbefore' c (by simp_all [List.getLast?_append]), hafter'⟩
    · have hnil : before' = [] := by
        by_contra hb
        have hsep := hbefore' _ (List.getLast?_eq_some_getLast hb)
        rw [htok _ (List.mem_append_left mid (List.getLast_mem hb))] at hsep
        cases hsep
      subst hnil
      refine .inl ⟨rfl, ?_⟩
      rw [← takeWhile_run htok' hafter', hmid]
      exact takeWhile_run htok hafter
  · rintro (⟨rfl, rfl⟩ | ⟨j, rfl, hne', htok', before', after', rfl, rfl, hbefore', hafter'⟩)
    · exact ⟨hne, htok, [], after, rfl, rfl, nofun, hafter⟩
    · refine ⟨hne', htok', tok ++ before', after', by simp, by simp, fun c hc => ?_, hafter'⟩
      cases before' with
      | nil =>
        obtain ⟨x, tok', rfl⟩ := List.exists_cons_of_ne_nil hne'
        simp_all
      | cons x before' => exact hbefore' c (by simp_all [List.getLast?_append])

/-! ### The tokens of a text -/

theorem rawTokens_append_run {tok : List Byte} (htok : ∀ c ∈ tok, isSep ws c = false) (pos : Nat)
    (cur after : List Byte) :
    rawTokens ws pos cur (tok ++ after) = rawTokens ws (pos + tok.length) (cur ++ tok) after := by
  induction tok generalizing pos cur with
  | nil => simp
  | cons c tok ih =>
    rw [List.cons_append, rawTokens_cons_char _ _ _ (htok c (by simp)), ih fun x hx => htok x (by simp [hx])]
    simp [Nat.add_assoc, Nat.add_comm 1]

/-- The bytes before a separator, or before the end of the text, are a token (R132). -/
theorem rawTokens_end {cur : List Byte} (hne : cur ≠ []) (pos : Nat) {after : List Byte}
    (hafter : ∀ c ∈ after.head?, isSep ws c = true) :
    rawTokens ws pos cur after = (pos - cur.length, cur) :: rawTokens ws pos [] after := by
  cases after with
  | nil => simp [hne]
  | cons c after =>
    have hc := hafter c rfl
    rw [rawTokens_cons_end pos after hc hne, rawTokens_cons_sep pos after hc]

/-- A maximal run at the front of a text is its first token. -/
theorem rawTokens_run {tok after : List Byte} (hne : tok ≠ []) (htok : ∀ c ∈ tok, isSep ws c = false)
    (hafter : ∀ c ∈ after.head?, isSep ws c = true) (pos : Nat) :
    rawTokens ws pos [] (tok ++ after) = (pos, tok) :: rawTokens ws (pos + tok.length) [] after := by
  rw [rawTokens_append_run htok, List.nil_append, rawTokens_end hne _ hafter, Nat.add_sub_cancel]

theorem rawTokens_of_all_sep {t : List Byte} (h : ∀ c ∈ t, isSep ws c = true) (pos : Nat) :
    rawTokens ws pos [] t = [] := by
  induction t generalizing pos with
  | nil => rfl
  | cons c t ih => rw [rawTokens_cons_sep pos t (h c (by simp)), ih fun x hx => h x (by simp [hx])]

/-- The tokens of a text are its maximal runs (R132). -/
theorem mem_rawTokens_iff (t : List Byte) (pos i : Nat) (tok : List Byte) :
    (i, tok) ∈ rawTokens ws pos [] t ↔ ∃ j, i = pos + j ∧ IsMaximalRun ws t j tok := by
  induction t using text_induction (ws := ws) generalizing pos with
  | nil => simp [not_isMaximalRun_nil]
  | sep c t hc ih =>
    simp only [rawTokens_cons_sep pos t hc, ih, isMaximalRun_cons_sep hc]
    constructor
    · rintro ⟨j, rfl, hrun⟩
      exact ⟨j + 1, by omega, j, rfl, hrun⟩
    · rintro ⟨-, rfl, j, rfl, hrun⟩
      exact ⟨j, by omega, hrun⟩
  | run tok' after hne htok hafter ih =>
    simp only [rawTokens_run hne htok hafter, List.mem_cons, Prod.mk.injEq, ih, isMaximalRun_append hne htok hafter]
    constructor
    · rintro (⟨rfl, rfl⟩ | ⟨j, rfl, hrun⟩)
      · exact ⟨0, rfl, .inl ⟨rfl, rfl⟩⟩
      · exact ⟨tok'.length + j, by omega, .inr ⟨j, rfl, hrun⟩⟩
    · rintro ⟨-, rfl, ⟨rfl, rfl⟩ | ⟨j, rfl, hrun⟩⟩
      · exact .inl ⟨rfl, rfl⟩
      · exact .inr ⟨j, by omega, hrun⟩

/-- A token starts after every token before it has ended (R132). -/
theorem rawTokens_pairwise (t : List Byte) (pos : Nat) :
    (rawTokens ws pos [] t).Pairwise fun a b => a.1 < b.1 := by
  induction t using text_induction (ws := ws) generalizing pos with
  | nil => simp
  | sep c t hc ih => exact rawTokens_cons_sep pos t hc ▸ ih (pos + 1)
  | run tok after hne htok hafter ih =>
    rw [rawTokens_run hne htok hafter]
    refine List.pairwise_cons.mpr ⟨fun ⟨i, tok'⟩ hmem => ?_, ih _⟩
    obtain ⟨j, rfl, -⟩ := (mem_rawTokens_iff ..).mp hmem
    have := List.length_pos_iff.mpr hne
    dsimp only
    omega

end runs

/-! ### What one token gives -/

theorem hasHexPrefix_iff (tok : List Byte) :
    hasHexPrefix tok = true ↔ tok[0]? = some 0x30 ∧ (tok[1]? = some 0x78 ∨ tok[1]? = some 0x58) := by
  match tok with
  | [] | [a] => simp [hasHexPrefix]
  | a :: b :: tok => simp [hasHexPrefix]

/-- The stripped token of R133, with the bytes it may lose spelled out. -/
theorem stripPrefix_eq (tok : List Byte) : stripPrefix tok =
    if tok[0]? = some 0x30 ∧ (tok[1]? = some 0x78 ∨ tok[1]? = some 0x58) then tok.drop 2 else tok :=
  if_congr (hasHexPrefix_iff tok) rfl rfl

/-- R133 removes nothing from a text of hexadecimal digits: `x` and `X` are no digits (R12). -/
theorem stripPrefix_of_all_ishex {tok : List Byte} (h : tok.all ishex = true) : stripPrefix tok = tok := by
  match tok with
  | [] | [a] => rfl
  | a :: b :: tok =>
    have hb : b ≠ 0x78 ∧ b ≠ 0x58 := by
      constructor <;> rintro rfl <;> simp [ishex, hexval] at h
    have hno : hasHexPrefix (a :: b :: tok) = false := by simpa [hasHexPrefix] using fun _ => hb
    rw [stripPrefix, hno]
    rfl

/-- `digits` holds two hexadecimal digits for each byte of `b`, the high one first, and they spell it (R136). -/
def SpellsPairs (digits b : List Byte) : Prop :=
  digits.length = 2 * b.length ∧
    ∀ k, k < b.length → ∃ (c0 c1 : Byte) (hi lo : Nat),
      digits[2 * k]? = some c0 ∧ hexval c0 = some hi ∧
      digits[2 * k + 1]? = some c1 ∧ hexval c1 = some lo ∧
      b[k]? = some (BitVec.ofNat 8 (16 * hi + lo))

namespace SpellsPairs

theorem tail {c0 c1 x : Byte} {digits b : List Byte} (h : SpellsPairs (c0 :: c1 :: digits) (x :: b)) :
    SpellsPairs digits b := by
  obtain ⟨hlen, hpair⟩ := h
  refine ⟨by simp at hlen; omega, fun k hk => ?_⟩
  simpa [Nat.mul_add] using hpair (k + 1) (by simpa using hk)

/-- Such digits are what the digit check accepts and what the pairing turns into the bytes. -/
theorem all_ishex_hexPairs {digits b : List Byte} (h : SpellsPairs digits b) :
    digits.all ishex = true ∧ hexPairs digits = b := by
  induction b generalizing digits with
  | nil =>
    obtain ⟨hlen, -⟩ := h
    obtain rfl := List.length_eq_zero_iff.mp hlen
    exact ⟨rfl, rfl⟩
  | cons x b ih =>
    have ⟨hlen, hpair⟩ := h
    match digits with
    | [] => simp at hlen
    | [_] =>
      simp at hlen
      omega
    | c0 :: c1 :: digits =>
      obtain ⟨hall, hpairs⟩ := ih h.tail
      obtain ⟨c0', c1', hi, lo, h0, hhi, h1, hlo, hx⟩ := hpair 0 (by simp)
      obtain rfl : c0 = c0' := by simpa using h0
      obtain rfl : c1 = c1' := by simpa using h1
      obtain rfl : x = _ := by simpa using hx
      simp [hexPairs, ishex_of_hexval hhi, ishex_of_hexval hlo, hall, hpairs, nibble_of_hexval hhi,
        nibble_of_hexval hlo]

end SpellsPairs

theorem parseToken_of_spellsPairs {tok b : List Byte} (h : SpellsPairs (stripPrefix tok) b) (pos : Nat) :
    parseToken pos tok = .ok b := by
  obtain ⟨hall, hpairs⟩ := h.all_ishex_hexPairs
  obtain ⟨hlen, -⟩ := h
  exact parseToken_ok_iff.mpr ⟨by omega, hall, hpairs.symm⟩

theorem parseToken_eq_oddNibble {tok : List Byte} (h : (stripPrefix tok).length % 2 = 1) (pos : Nat) :
    parseToken pos tok = .error (.oddNibbleError pos tok.length) := by
  simp [parseToken, h]

theorem parseToken_eq_invalidHex {tok : List Byte} (h : (stripPrefix tok).length % 2 = 0) {c : Byte}
    (hc : c ∈ stripPrefix tok) (hbad : ishex c = false) (pos : Nat) :
    parseToken pos tok = .error (.invalidHexError pos tok.length) := by
  have hall : (stripPrefix tok).all ishex = false := List.all_eq_false.mpr ⟨c, hc, by simp [hbad]⟩
  simp [parseToken, h, hall]

/-! ### What a list of tokens gives -/

/-- Tokens that each parse give their bytes in order (R136). -/
theorem parseTokens_of_forall₂ {ts : List (Nat × List Byte)} {bs : List (List Byte)}
    (h : List.Forall₂ (fun p b => parseToken p.1 p.2 = .ok b) ts bs) : parseTokens ts = .ok bs.flatten := by
  induction h with
  | nil => rfl
  | cons hp _ ih => exact parseTokens_cons_ok_iff.mpr ⟨_, _, hp, ih, rfl⟩

/-- Behind tokens that parse, the first that fails decides the fault (R136). -/
theorem parseTokens_of_first_error {good rest : List (Nat × List Byte)} {p : Nat × List Byte} {k : CoreFault}
    (hgood : ∀ q ∈ good, ∃ b, parseToken q.1 q.2 = .ok b) (hp : parseToken p.1 p.2 = .error k) :
    parseTokens (good ++ p :: rest) = .error k := by
  induction good with
  | nil => exact parseTokens_cons_error_iff.mpr (.inl hp)
  | cons q good ih =>
    obtain ⟨b, hb⟩ := hgood q (by simp)
    exact parseTokens_cons_error_iff.mpr (.inr ⟨b, hb, ih fun q hq => hgood q (by simp [hq])⟩)

/-! ### Texts of hex pairs -/

section pairs
variable {ws : List Byte} {upper : Bool}

theorem ishex_of_mem_hexPair {x c : Byte} (h : c ∈ hexPair upper x) : ishex c = true := by
  have hx := x.isLt
  rcases List.mem_pair.mp h with rfl | rfl <;> exact ishex_hexdigit (by omega) upper

theorem ishex_of_mem_hexText {b : List Byte} {c : Byte} (h : c ∈ b.flatMap (hexPair upper)) : ishex c = true := by
  obtain ⟨x, -, hx⟩ := List.mem_flatMap.mp h
  exact ishex_of_mem_hexPair hx

/-- A byte is the value of its pair of digits (R136, R151). -/
theorem hexPairs_hexPair_append (x : Byte) (digits : List Byte) :
    hexPairs (hexPair upper x ++ digits) = x :: hexPairs digits := by
  have hx := x.isLt
  have hhi := nibble_of_hexval (hexval_hexdigit (n := x.toNat / 16) (by omega) upper)
  have hlo := nibble_of_hexval (hexval_hexdigit (n := x.toNat % 16) (by omega) upper)
  have hval : 16 * (x.toNat / 16) + x.toNat % 16 = x.toNat := Nat.div_add_mod x.toNat 16
  simp [hexPair, hexPairs, hhi, hlo, hval]

theorem hexPairs_hexText (b : List Byte) : hexPairs (b.flatMap (hexPair upper)) = b := by
  induction b with
  | nil => rfl
  | cons x b ih => rw [List.flatMap_cons, hexPairs_hexPair_append, ih]

/-- Pairs of digits on end are one token, which gives their bytes. -/
theorem parseToken_hexText (pos : Nat) (b : List Byte) : parseToken pos (b.flatMap (hexPair upper)) = .ok b := by
  have hall : (b.flatMap (hexPair upper)).all ishex = true :=
    List.all_eq_true.mpr fun c hc => ishex_of_mem_hexText hc
  have hlen : (b.flatMap (hexPair upper)).length = 2 * b.length := by
    simp [List.length_flatMap, hexPair_length, Nat.mul_comm]
  rw [parseToken_ok_iff, stripPrefix_of_all_ishex hall, hexPairs_hexText]
  exact ⟨by omega, hall, rfl⟩

/-- Wherever `t` stands, and whatever pairs of digits stand on end directly before it, the tokens are worth the bytes of
those pairs and then `b`. -/
def ParsesAfterPairs (ws : List Byte) (upper : Bool) (t b : List Byte) : Prop :=
  ∀ (pos : Nat) (done : List Byte),
    parseTokens (rawTokens ws pos (done.flatMap (hexPair upper)) t) = .ok (done ++ b)

namespace ParsesAfterPairs

/-- The pairs before a separator, or before the end of the text, are a token of their own. -/
theorem of_ends {t b : List Byte} (hends : ∀ c ∈ t.head?, isSep ws c = true)
    (h : ∀ pos, parseTokens (rawTokens ws pos [] t) = .ok b) : ParsesAfterPairs ws upper t b := by
  intro pos done
  by_cases hdone : done.flatMap (hexPair upper) = []
  · have hb : done = [] := by
      rw [← hexPairs_hexText (upper := upper) done, hdone]
      rfl
    rw [hdone, h, hb, List.nil_append]
  · rw [rawTokens_end hdone pos hends]
    exact parseTokens_cons_ok_iff.mpr ⟨_, _, parseToken_hexText _ done, h pos, rfl⟩

theorem nil : ParsesAfterPairs ws upper [] [] := of_ends nofun fun _ => rfl

/-- Separators between pairs change nothing. -/
theorem sep_append {sep t b : List Byte} (hsep : ∀ c ∈ sep, isSep ws c = true) (h : ParsesAfterPairs ws upper t b) :
    ParsesAfterPairs ws upper (sep ++ t) b := by
  induction sep with
  | nil => exact h
  | cons c sep ih =>
    have hc := hsep c (by simp)
    refine of_ends (by simp [hc]) fun pos => ?_
    rw [List.cons_append, rawTokens_cons_sep _ _ hc]
    exact ih (fun x hx => hsep x (by simp [hx])) (pos + 1) []

/-- A pair of digits more is a byte more. -/
theorem hexPair_append (hws : ∀ c ∈ ws, notWhitespace c = false) {t b : List Byte}
    (h : ParsesAfterPairs ws upper t b) (x : Byte) :
    ParsesAfterPairs ws upper (hexPair upper x ++ t) (x :: b) := by
  intro pos done
  rw [rawTokens_append_run fun c hc => isSep_of_ishex hws (ishex_of_mem_hexPair hc)]
  simpa using h (pos + (hexPair upper x).length) (done ++ [x])

end ParsesAfterPairs

/-- A Hex rendering with a separator of separators is pairs of digits, between separators (R140, R153). -/
theorem parsesAfterPairs_render (hws : ∀ c ∈ ws, notWhitespace c = false) (hnl : newline ∈ ws) {sep : List Byte}
    (hsep : ∀ c ∈ sep, isSep ws c = true) (b : List Byte) :
    ParsesAfterPairs ws upper (render b .hex sep upper) b := by
  have hend : ParsesAfterPairs ws upper [newline] [] :=
    ParsesAfterPairs.nil.sep_append (sep := [newline]) (by simpa using isSep_newline hnl)
  induction b with
  | nil => exact hend
  | cons x b ih =>
    cases b with
    | nil => exact hend.hexPair_append hws x
    | cons y b =>
      have hrender : render (x :: y :: b) .hex sep upper =
          hexPair upper x ++ (sep ++ render (y :: b) .hex sep upper) := by
        simp [render, List.intercalate_cons_cons]
      rw [hrender]
      exact (ih.sep_append hsep).hexPair_append hws x

end pairs

/-! ### The commands that parse `TIN` -/

theorem exec_hexparse_eq (f : Fields) (s : State) :
    exec (.hexparse f) s = runCommand (.hexparse f) s (do
      let b ← parse s.cfg.wsSet s.tin
      roomFor s.bseq.length s.cfg.bseqCap b.length
      return (s.withBseq (s.bseq ++ b)).withTin []) := rfl

theorem inputBytes_hexText {f : Fields} (hf : f.infmt = .hexText) (s : State) :
    inputBytes f s = parse s.cfg.wsSet s.tin := by
  rw [inputBytes, hf]

/-- The record of an OddNibbleError (R224, R226). -/
theorem State.raise_oddNibbleError (s : State) (c : Word) (pos len : Nat) :
    s.raise c (.oddNibbleError pos len) = s.withRecord 3 c 0 (sat32 pos) (sat32 len) 0 := rfl

/-- The record of an InvalidHexError (R225, R226). -/
theorem State.raise_invalidHexError (s : State) (c : Word) (pos len : Nat) :
    s.raise c (.invalidHexError pos len) = s.withRecord 4 c 0 (sat32 pos) (sat32 len) 0 := rfl

/-- The commands that parse `TIN`: HEXPARSE, and UNPACKOP and PASSOP with `INFMT` 0 (R137, R194, R199). -/
def ParsesInput (i : Instr) : Prop :=
  (∃ f, i = .hexparse f) ∨ (∃ f : Fields, f.infmt = .hexText ∧ (i = .unpackop f ∨ i = .passop f))

/-- A fault of the parse is the fault of the command: it stands before every capacity test (R234). -/
theorem exec_of_parse_error {i : Instr} {s : State} {k : CoreFault} (hi : ParsesInput i)
    (hwf : i.wellFormed = true) (hs : s.faulted = false) (hk : parse s.cfg.wsSet s.tin = .error k) :
    exec i s = .next (s.raise (encode i) k) := by
  rcases hi with ⟨f, rfl⟩ | ⟨f, hfmt, rfl | rfl⟩
  · rw [exec_hexparse_eq, hk, except_error_bind, runCommand_error k hs]
  · obtain ⟨w, hw⟩ := widthOf_of_valid hwf
    rw [exec_unpackop_eq, hw, except_ok_bind, inputBytes_hexText hfmt, hk]
    exact runCommand_error k hs
  · rw [exec_passop_eq, inputBytes_hexText hfmt, hk]
    exact runCommand_error k hs

end Sys2Proof.Machine

/-! ### The statements of 41_hex_token_parser -/

section
open Sys2Proof Sys2Proof.Machine

/-- Settles O37: induction over the text as separators and maximal runs. -/
theorem rawTokensAreMaximalRuns : Obligations.RawTokensAreMaximalRuns := by
  unfold Obligations.RawTokensAreMaximalRuns
  refine fun ws t => ⟨fun c => isSep_iff, fun h => ?_, fun i tok => ?_, rawTokens_pairwise t 0⟩
  · rw [parse, rawTokens_of_all_sep h, parseTokens_nil]
  · have hmem := mem_rawTokens_iff (ws := ws) t 0 i tok
    simp only [Nat.zero_add, exists_eq_left'] at hmem
    exact hmem

/-- Settles O38: token by token, the digits pass both checks and pair up to the bytes. -/
theorem parseJoinsTokenBytes : Obligations.ParseJoinsTokenBytes := by
  unfold Obligations.ParseJoinsTokenBytes
  intro ws t bs h
  refine parseTokens_of_forall₂ (h.imp fun p b hpair => parseToken_of_spellsPairs ?_ p.1)
  rw [stripPrefix_eq]
  exact hpair

/-- Settles O39: a rendering is pairs of digits between separators, whether the separator is empty or not. -/
theorem parseInvertsHexRendering : Obligations.ParseInvertsHexRendering := by
  unfold Obligations.ParseInvertsHexRendering
  intro ws b sep upper hnl hws hsep
  exact parsesAfterPairs_render hws hnl hsep b 0 []

/-- Settles O40: the capacity test on the bytes of the parse, then its effects. -/
theorem hexparseCommand : Obligations.HexparseCommand := by
  unfold Obligations.HexparseCommand
  intro f s b hs hb
  rw [exec_hexparse_eq, hb, except_ok_bind]
  refine ⟨fun hfull => ?_, fun hroom => ?_⟩
  · rw [roomFor_error_iff.mpr ⟨hfull, rfl⟩, except_error_bind, runCommand_error _ hs, State.raise_capacityError]
  · rw [(roomFor_ok_iff (u := ())).mpr hroom, except_ok_bind]
    exact runCommand_ok _ hs

/-- Settles O41: the first token that fails ends the parse, and the command with it. -/
theorem parseFaultNamesFirstBadToken : Obligations.ParseFaultNamesFirstBadToken := by
  unfold Obligations.ParseFaultNamesFirstBadToken
  intro i s good rest pos tok hs hwf hi htokens hgood
  have hfault {k : CoreFault} (hk : parseToken pos tok = .error k) : exec i s = .next (s.raise (encode i) k) := by
    refine exec_of_parse_error hi hwf hs ?_
    rw [parse, htokens]
    exact parseTokens_of_first_error hgood hk
  rw [← stripPrefix_eq]
  refine ⟨fun hodd => ?_, fun heven ⟨c, hc, hbad⟩ => ?_⟩
  · rw [hfault (parseToken_eq_oddNibble hodd pos), State.raise_oddNibbleError]
  · rw [hfault (parseToken_eq_invalidHex heven hc hbad pos), State.raise_invalidHexError]

end

/-! ## The Byte Formatter: the formats byte by byte, and RENDER

How a rendering grows by a byte, and that the capacity test on lengths is the test of the rendering itself; then the
statements of 42_byte_formatter. -/

namespace Sys2Proof.Machine

/-! ### Pairs and formats -/

/-- A digit of R12 is decimal, or a letter of the case that `upper` asks for. -/
theorem hexdigit_letter_case {n : Nat} (h : n < 16) (upper : Bool) :
    isdec (hexdigit n upper) = true ∨ (upper = true ∧ (hexdigit n upper).toNat ≤ 0x46) ∨
      (upper = false ∧ 0x61 ≤ (hexdigit n upper).toNat) := by
  revert n upper
  decide

/-- Between two pairs stands the separator (R153). -/
theorem render_hex_cons_cons (sep : List Byte) (upper : Bool) (x y : Byte) (b : List Byte) :
    render (x :: y :: b) .hex sep upper = hexPair upper x ++ sep ++ render (y :: b) .hex sep upper := by
  simp [render, List.intercalate_cons_cons]

/-- Each byte adds its escape in front (R154). -/
theorem render_cEsc_cons (sep : List Byte) (upper : Bool) (x : Byte) (b : List Byte) :
    render (x :: b) .cEsc sep upper = escapeByte upper x ++ render b .cEsc sep upper := by
  simp [render]

/-! ### The capacity test in front of a rendering -/

section rendered
variable {s : State} {f : Fields} {p : List Byte} {k : Nat} {o : List Byte}

/-- The test on lengths alone is the test on the whole rendering `o` (R156, R231; log 11). -/
theorem appendRendered_eq_roomFor (ho : render (repeatBytes p k) f.fmt s.separator f.upper = o) :
    appendRendered s f p k = roomFor s.tout.length s.cfg.toutCap o.length >>= fun _ => .ok (s.tout ++ o) := by
  subst ho
  rw [appendRendered, length_render, repeatBytes_length]
  rfl

theorem appendRendered_of_full (ho : render (repeatBytes p k) f.fmt s.separator f.upper = o)
    (h : s.cfg.toutCap < s.tout.length + o.length) :
    appendRendered s f p k = .error (.capacityError o.length (s.cfg.toutCap - s.tout.length)) := by
  rw [appendRendered_eq_roomFor ho, roomFor_error_iff.mpr ⟨h, rfl⟩, except_error_bind]

theorem appendRendered_of_room (ho : render (repeatBytes p k) f.fmt s.separator f.upper = o)
    (h : s.tout.length + o.length ≤ s.cfg.toutCap) : appendRendered s f p k = .ok (s.tout ++ o) := by
  rw [appendRendered_eq_roomFor ho, (roomFor_ok_iff (u := ())).mpr h, except_ok_bind]

end rendered

theorem exec_render_eq (f : Fields) (s : State) :
    exec (.render f) s = runCommand (.render f) s (do
      let o ← appendRendered s f s.bseq 1
      return (s.withTout o).withBseq []) := rfl

end Sys2Proof.Machine

/-! ### The statements of 42_byte_formatter -/

section
open Sys2Proof Sys2Proof.Machine

/-- Settles O42: a pair is the two digits of the byte's nibbles, and each format follows the sequence byte by byte. -/
theorem renderFormats : Obligations.RenderFormats := by
  unfold Obligations.RenderFormats
  intro sep upper
  refine ⟨fun x => ?_, fun b => rfl, rfl, fun x => rfl, render_hex_cons_cons sep upper, rfl,
    render_cEsc_cons sep upper, fun b => ?_⟩
  · have hx := x.isLt
    have hhi : x.toNat / 16 < 16 := by omega
    have hlo : x.toNat % 16 < 16 := by omega
    refine ⟨_, _, rfl, hexval_hexdigit hhi upper, hexval_hexdigit hlo upper, fun c hc => ?_⟩
    rcases List.mem_pair.mp hc with rfl | rfl
    · exact hexdigit_letter_case hhi upper
    · exact hexdigit_letter_case hlo upper
  · exact List.append_assoc _ [0x22] [newline]

/-- Settles O43: `renderLength` is the length of every rendering, and its four cases are the four formulas. -/
theorem renderLengths : Obligations.RenderLengths := by
  unfold Obligations.RenderLengths
  intro b sep upper
  exact ⟨length_render b .raw sep upper, length_render b .hex sep upper, length_render b .cEsc sep upper,
    length_render b .pyEsc sep upper⟩

/-- Settles O44: the capacity test is on the rendering itself, then its effects. -/
theorem renderCommand : Obligations.RenderCommand := by
  unfold Obligations.RenderCommand
  intro f s hs o
  have ho : render (repeatBytes s.bseq 1) f.fmt s.separator f.upper = o := by
    rw [repeatBytes_one, State.separator]
  rw [exec_render_eq]
  refine ⟨fun hfull => ?_, fun hroom => ?_⟩
  · rw [appendRendered_of_full ho hfull, except_error_bind, runCommand_error _ hs, State.raise_capacityError]
  · rw [appendRendered_of_room ho hroom, except_ok_bind]
    exact runCommand_ok _ hs

end

/-! ## The support commands: literals, decimal text, framing, and LIT, DECOUT and BREV

Which texts are literals and what they spell, that the decimal text of a number is a literal of it, and how the fields of
a text spell it again; then the statements of 43_support_commands. -/

namespace Sys2Proof.Machine

/-! ### Literals -/

/-- Reading digits from the left is their positional value, least significant digit first. -/
theorem foldl_eq_ofDigits (b : Nat) (value : Byte → Nat) (ds : List Byte) :
    ds.foldl (fun a c => a * b + value c) 0 = Nat.ofDigits b (ds.reverse.map value) := by
  rw [Nat.ofDigits_eq_foldr, List.foldr_map, List.foldr_reverse]
  simp only [Nat.cast_id, Nat.mul_comm b, Nat.add_comm (value _)]

/-- The number hexadecimal digits spell (R172). -/
theorem hexNumber_eq_ofDigits (ds : List Byte) :
    (hexNumber ds : Int) = Nat.ofDigits 16 (ds.reverse.map nibble) := by
  rw [hexNumber, foldl_eq_ofDigits, Nat.coe_ofDigits, Nat.cast_ofNat]

/-- The value of a decimal digit (R12), as `decNumber` reads it. -/
def decValue (c : Byte) : Nat := c.toNat - 0x30

/-- The number decimal digits spell (R172). -/
theorem decNumber_eq_ofDigits (ds : List Byte) :
    (decNumber ds : Int) = Nat.ofDigits 10 (ds.reverse.map decValue) := by
  rw [← Nat.cast_ofNat (n := 10), ← Nat.coe_ofDigits, ← foldl_eq_ofDigits]
  rfl

/-- A sign byte of R170, or none. -/
def IsSign (sign : List Byte) : Prop := sign = [] ∨ sign = [plus] ∨ sign = [minus]

/-- The factor a sign stands for (R172). -/
def signFactor (sign : List Byte) : Int := if sign = [minus] then -1 else 1

/-- A text that begins with `0x` or `0X`, with these two bytes split off (R133, R170). -/
theorem hasHexPrefix_iff_exists {s : List Byte} : hasHexPrefix s = true ↔
    ∃ x ds, s = 0x30 :: x :: ds ∧ (x = 0x78 ∨ x = 0x58) := by
  match s with
  | [] | [a] => simp [hasHexPrefix]
  | a :: b :: s => simp [hasHexPrefix]

/-- A hexadecimal literal is `0x` or `0X` and its digits (R170). -/
theorem isHexLiteral_iff {s : List Byte} : isHexLiteral s = true ↔
    ∃ x ds, s = 0x30 :: x :: ds ∧ (x = 0x78 ∨ x = 0x58) ∧ ds ≠ [] ∧ ∀ c ∈ ds, ishex c = true := by
  simp only [isHexLiteral, Bool.and_eq_true, decide_eq_true_eq, hasHexPrefix_iff_exists, List.all_eq_true]
  constructor
  · rintro ⟨⟨⟨x, ds, rfl, hx⟩, hlen⟩, hds⟩
    exact ⟨x, ds, rfl, hx, by rintro rfl; simp at hlen, hds⟩
  · rintro ⟨x, ds, rfl, hx, hne, hds⟩
    have hpos := List.length_pos_iff.mpr hne
    exact ⟨⟨⟨x, ds, rfl, hx⟩, by simp only [List.length_cons]; omega⟩, hds⟩

/-- A text is its optional sign and the rest (R170). -/
theorem exists_sign_append (s : List Byte) : ∃ sign, IsSign sign ∧ s = sign ++ unsignedPart s := by
  cases s with
  | nil => exact ⟨[], .inl rfl, rfl⟩
  | cons c t =>
    by_cases hp : c = plus
    · exact ⟨[plus], .inr (.inl rfl), by simp [unsignedPart, hp]⟩
    · by_cases hm : c = minus
      · exact ⟨[minus], .inr (.inr rfl), by simp [unsignedPart, hm]⟩
      · exact ⟨[], .inl rfl, by simp [unsignedPart, hp, hm]⟩

section decimal
variable {sign ds : List Byte}

/-- A decimal digit is no sign byte. -/
theorem ne_sign_of_isdec {c : Byte} (h : isdec c = true) : c ≠ plus ∧ c ≠ minus := by
  revert c
  decide

/-- Digits hold no sign byte, so the sign in front of them is the whole sign. -/
theorem unsignedPart_append (hsign : IsSign sign) (hds : ∀ c ∈ ds, isdec c = true) :
    unsignedPart (sign ++ ds) = ds := by
  rcases hsign with rfl | rfl | rfl
  · cases ds with
    | nil => rfl
    | cons c t =>
      obtain ⟨hp, hm⟩ := ne_sign_of_isdec (hds c List.mem_cons_self)
      simp [unsignedPart, hp, hm]
  · rfl
  · rfl

/-- The minus sign of a literal is its first byte. -/
theorem head?_append_eq_minus_iff (hsign : IsSign sign) (hds : ∀ c ∈ ds, isdec c = true) :
    (sign ++ ds).head? = some minus ↔ sign = [minus] := by
  rcases hsign with rfl | rfl | rfl
  · cases ds with
    | nil => simp
    | cons c t => simpa using (ne_sign_of_isdec (hds c List.mem_cons_self)).2
  · simp [plus, minus]
  · simp

theorem isDecLiteral_append (hsign : IsSign sign) (hne : ds ≠ []) (hds : ∀ c ∈ ds, isdec c = true) :
    isDecLiteral (sign ++ ds) = true := by
  rw [isDecLiteral, unsignedPart_append hsign hds]
  simpa [hne] using hds

theorem isDecLiteral_iff {s : List Byte} : isDecLiteral s = true ↔
    ∃ sign ds, s = sign ++ ds ∧ IsSign sign ∧ ds ≠ [] ∧ ∀ c ∈ ds, isdec c = true := by
  constructor
  · intro h
    obtain ⟨sign, hsign, heq⟩ := exists_sign_append s
    obtain ⟨hne, hds⟩ : unsignedPart s ≠ [] ∧ ∀ c ∈ unsignedPart s, isdec c = true := by
      simpa [isDecLiteral] using h
    exact ⟨sign, _, heq, hsign, hne, hds⟩
  · rintro ⟨sign, ds, rfl, hsign, hne, hds⟩
    exact isDecLiteral_append hsign hne hds

/-- No text is a literal of both kinds: a sign is no `0`, and neither `x` nor `X` is a decimal digit. -/
theorem isHexLiteral_eq_false (hsign : IsSign sign) (hds : ∀ c ∈ ds, isdec c = true) :
    isHexLiteral (sign ++ ds) = false := by
  rw [Bool.eq_false_iff]
  intro hhex
  obtain ⟨x, rest, heq, hx, -, -⟩ := isHexLiteral_iff.mp hhex
  have hxds : x ∈ ds := by
    rcases hsign with rfl | rfl | rfl
    · rw [show ds = 0x30 :: x :: rest from heq]
      exact List.mem_cons_of_mem _ List.mem_cons_self
    · exact absurd (List.cons.inj heq).1 (by decide)
    · exact absurd (List.cons.inj heq).1 (by decide)
  rcases hx with rfl | rfl
  · exact absurd (hds _ hxds) (by decide)
  · exact absurd (hds _ hxds) (by decide)

/-- The value of a decimal literal (R172). -/
theorem literalValue_decimal (hsign : IsSign sign) (hne : ds ≠ []) (hds : ∀ c ∈ ds, isdec c = true) :
    literalValue (sign ++ ds) =
      some (signFactor sign * (Nat.ofDigits 10 (ds.reverse.map decValue) : Int)) := by
  rw [literalValue, isHexLiteral_eq_false hsign hds, isDecLiteral_append hsign hne hds, unsignedPart_append hsign hds,
    ← decNumber_eq_ofDigits]
  by_cases hminus : sign = [minus]
  · simp [hminus, signFactor]
  · have hhead := mt (head?_append_eq_minus_iff hsign hds).mp hminus
    simp only [beq_iff_eq, hhead, hminus, signFactor, if_false, if_true, one_mul, Bool.false_eq_true]

end decimal

/-- The value of a hexadecimal literal (R172). -/
theorem literalValue_hexadecimal {x : Byte} {ds : List Byte} (hx : x = 0x78 ∨ x = 0x58) (hne : ds ≠ [])
    (hds : ∀ c ∈ ds, ishex c = true) :
    literalValue (0x30 :: x :: ds) = some (Nat.ofDigits 16 (ds.reverse.map nibble)) := by
  rw [literalValue, if_pos (isHexLiteral_iff.mpr ⟨x, ds, rfl, hx, hne, hds⟩), ← hexNumber_eq_ofDigits]
  rfl

/-- A text with a value is a literal of one of the two kinds (R170, R172). -/
theorem isLiteral_of_literalValue {s : List Byte} {v : Int} (h : literalValue s = some v) :
    isHexLiteral s = true ∨ isDecLiteral s = true := by
  unfold literalValue at h
  split at h
  · exact .inl ‹_›
  · split at h
    · exact .inr ‹_›
    · cases h

/-! ### Decimal text -/

theorem dec_natCast (n : Nat) : dec (n : Int) = decText n := by
  rw [dec, if_neg (by omega), Int.toNat_natCast]

theorem dec_neg_natCast {n : Nat} (h : 0 < n) : dec (-(n : Int)) = minus :: decText n := by
  rw [dec, if_pos (by omega), neg_neg, Int.toNat_natCast]

/-- With enough fuel the digits are those of the number in base ten, put before the accumulator (R176). -/
theorem decDigits_eq {fuel n : Nat} (hn : 0 < n) (hfuel : n < fuel) (acc : List Byte) :
    decDigits fuel n acc = (Nat.digits 10 n).reverse.map decdigit ++ acc := by
  induction fuel generalizing n acc with
  | zero => omega
  | succ fuel ih =>
    rw [decDigits]
    split
    · rename_i hsmall
      rw [Nat.digits_of_lt 10 n (by omega) hsmall]
      rfl
    · rename_i hlarge
      rw [ih (by omega) (by omega), Nat.digits_def' (by decide) hn]
      simp

@[simp] theorem decText_zero : decText 0 = [0x30] := rfl

theorem decText_of_pos {n : Nat} (hn : 0 < n) : decText n = (Nat.digits 10 n).reverse.map decdigit := by
  rw [decText, decDigits_eq hn n.lt_succ_self, List.append_nil]

theorem decText_ne_nil (n : Nat) : decText n ≠ [] := by
  rcases n.eq_zero_or_pos with rfl | hn
  · simp
  · simpa [decText_of_pos hn, Nat.digits_eq_nil_iff_eq_zero] using hn.ne'

theorem isdec_decdigit {d : Nat} (h : d < 10) : isdec (decdigit d) = true := by
  revert d
  decide

theorem decValue_decdigit {d : Nat} (h : d < 10) : decValue (decdigit d) = d := by
  revert d
  decide

theorem isdec_of_mem_decText {n : Nat} {c : Byte} (h : c ∈ decText n) : isdec c = true := by
  rcases n.eq_zero_or_pos with rfl | hn
  · rw [List.mem_singleton.mp h]
    rfl
  · rw [decText_of_pos hn] at h
    obtain ⟨d, hd, rfl⟩ := List.mem_map.mp h
    exact isdec_decdigit (Nat.digits_lt_base (by decide) (List.mem_reverse.mp hd))

/-- The digits of a number, read back, spell it (R172, R176). -/
theorem ofDigits_decText (n : Nat) : Nat.ofDigits 10 ((decText n).reverse.map decValue) = n := by
  rcases n.eq_zero_or_pos with rfl | hn
  · rfl
  · have hback : ((decText n).reverse.map decValue) = Nat.digits 10 n := by
      rw [decText_of_pos hn, ← List.map_reverse, List.reverse_reverse, List.map_map]
      exact (List.map_congr_left fun d hd =>
        decValue_decdigit (Nat.digits_lt_base (by decide) hd)).trans (List.map_id _)
    rw [hback, Nat.ofDigits_digits]

theorem length_decText_le {n k : Nat} (hk : 0 < k) (h : n < 10 ^ k) : (decText n).length ≤ k := by
  rcases n.eq_zero_or_pos with rfl | hn
  · exact hk
  · rw [decText_of_pos hn, List.length_map, List.length_reverse]
    exact (Nat.digits_length_le_iff (by decide) n).mpr h

/-- The sign of the decimal text of `v` (R176). -/
def decSign (v : Int) : List Byte := if v < 0 then [minus] else []

theorem isSign_decSign (v : Int) : IsSign (decSign v) := by
  unfold decSign IsSign
  split <;> simp

theorem dec_eq_append (v : Int) : dec v = decSign v ++ decText v.natAbs := by
  unfold dec decSign
  split
  · rw [show (-v).toNat = v.natAbs by omega]
    rfl
  · rw [show v.toNat = v.natAbs by omega]
    rfl

theorem signFactor_decSign (v : Int) : signFactor (decSign v) * (v.natAbs : Int) = v := by
  unfold decSign signFactor
  split
  · rw [if_pos rfl]
    omega
  · rw [if_neg nofun]
    omega

/-- Decimal text is a literal of its number (R172, R176). -/
theorem literalValue_dec (v : Int) : literalValue (dec v) = some v := by
  have hspell := congrArg (Nat.cast : Nat → Int) (ofDigits_decText v.natAbs)
  rw [Nat.coe_ofDigits, Nat.cast_ofNat] at hspell
  rw [dec_eq_append, literalValue_decimal (isSign_decSign v) (decText_ne_nil _) fun _ => isdec_of_mem_decText,
    hspell, signFactor_decSign]

/-- No scalar has more than 39 digits (R176). -/
theorem length_dec_le {v : Int} (hmin : smin ≤ v) (hmax : v ≤ smax) : (dec v).length ≤ 40 := by
  have hdigits : (decText v.natAbs).length ≤ 39 := by
    refine length_decText_le (by decide) ?_
    simp only [smin, smax] at hmin hmax
    omega
  have hsign : (decSign v).length ≤ 1 := by
    unfold decSign
    split <;> simp
  rw [dec_eq_append, List.length_append]
  omega

/-! ### Framing -/

/-- The fields, each followed by its 0x00. -/
def joinFields (ps : List (Nat × List Byte)) : List Byte := ps.flatMap fun p => p.2 ++ [0x00]

@[simp] theorem joinFields_nil : joinFields [] = [] := rfl

@[simp] theorem joinFields_cons (p : Nat × List Byte) (ps : List (Nat × List Byte)) :
    joinFields (p :: ps) = p.2 ++ 0x00 :: joinFields ps := by
  simp [joinFields]

/-- The text with a final 0x00, unless it is empty or has one. -/
def terminated (t : List Byte) : List Byte := if t = [] ∨ t.getLast? = some 0x00 then t else t ++ [0x00]

theorem splitFields_nil (pos : Nat) (cur : List Byte) :
    splitFields pos cur [] = if cur = [] then [] else [(pos - cur.length, cur)] := by
  simp [splitFields]

theorem splitFields_cons_nul (pos : Nat) (cur t : List Byte) :
    splitFields pos cur (0x00 :: t) = (pos - cur.length, cur) :: splitFields (pos + 1) [] t := rfl

theorem splitFields_cons_of_ne {c : Byte} (hc : c ≠ 0x00) (pos : Nat) (cur t : List Byte) :
    splitFields pos cur (c :: t) = splitFields (pos + 1) (cur ++ [c]) t :=
  if_neg (by simpa using hc)

section fields
variable {pos : Nat} {cur t : List Byte}

theorem nul_not_mem_append_singleton {c : Byte} (hcur : 0x00 ∉ cur) (hc : c ≠ 0x00) : 0x00 ∉ cur ++ [c] := by
  rw [List.mem_append, List.mem_singleton]
  exact not_or.mpr ⟨hcur, hc.symm⟩

theorem terminated_of_not_mem (h : 0x00 ∉ t) (hne : t ≠ []) : terminated t = t ++ [0x00] := by
  refine if_neg ?_
  rintro (rfl | hlast)
  · exact hne rfl
  · exact h (List.mem_of_getLast? hlast)

/-- What is supplied at the end depends on the text behind a 0x00 alone. -/
theorem terminated_append_nul (b t : List Byte) : terminated (b ++ 0x00 :: t) = b ++ 0x00 :: terminated t := by
  unfold terminated
  cases t with
  | nil => simp
  | cons c t =>
    have hlast : (b ++ 0x00 :: c :: t).getLast? = (c :: t).getLast? := by
      rw [List.getLast?_append_cons, List.getLast?_cons_cons]
    simp only [hlast, List.append_eq_nil_iff, reduceCtorEq, and_false, false_or]
    split
    · rfl
    · exact List.append_assoc b (0x00 :: c :: t) [0x00]

/-- The 0x00 bytes are removed from the fields (R175). -/
theorem not_mem_of_mem_splitFields (hcur : 0x00 ∉ cur) {p : Nat × List Byte} (hp : p ∈ splitFields pos cur t) :
    0x00 ∉ p.2 := by
  induction t generalizing pos cur with
  | nil =>
    rw [splitFields_nil] at hp
    split at hp
    · exact absurd hp List.not_mem_nil
    · rw [List.mem_singleton.mp hp]
      exact hcur
  | cons c t ih =>
    by_cases hc : c = 0x00
    · subst hc
      rw [splitFields_cons_nul] at hp
      rcases List.mem_cons.mp hp with rfl | hp
      · exact hcur
      · exact ih List.not_mem_nil hp
    · rw [splitFields_cons_of_ne hc] at hp
      exact ih (nul_not_mem_append_singleton hcur hc) hp

/-- The bytes `cur` of the field so far stand in front of the text still to split (R175). -/
theorem joinFields_splitFields (hcur : 0x00 ∉ cur) : joinFields (splitFields pos cur t) = terminated (cur ++ t) := by
  induction t generalizing pos cur with
  | nil =>
    rw [List.append_nil]
    rcases eq_or_ne cur [] with rfl | hne
    · rfl
    · rw [splitFields_nil, if_neg hne, terminated_of_not_mem hcur hne, joinFields_cons, joinFields_nil]
  | cons c t ih =>
    by_cases hc : c = 0x00
    · subst hc
      have hrest : joinFields (splitFields (pos + 1) [] t) = terminated t := ih List.not_mem_nil
      rw [splitFields_cons_nul, terminated_append_nul, ← hrest, joinFields_cons]
    · rw [splitFields_cons_of_ne hc, ih (nul_not_mem_append_singleton hcur hc), List.append_assoc]
      rfl

/-- A field starts where the fields before it end; `start` is the index of the first (R175). -/
theorem fst_of_splitFields {start : Nat} (hpos : pos = start + cur.length) {before after : List (Nat × List Byte)}
    {p : Nat × List Byte} (h : splitFields pos cur t = before ++ p :: after) :
    p.1 = start + (joinFields before).length := by
  induction t generalizing pos cur start before with
  | nil =>
    rw [splitFields_nil] at h
    split at h
    · simp at h
    · obtain ⟨rfl, hp⟩ : before = [] ∧ p :: after = [(pos - cur.length, cur)] := by
        simpa [List.singleton_eq_append_iff] using h
      obtain ⟨rfl, -⟩ := List.cons.inj hp
      simp [hpos]
  | cons c t ih =>
    by_cases hc : c = 0x00
    · subst hc
      rw [splitFields_cons_nul] at h
      cases before with
      | nil =>
        obtain ⟨rfl, -⟩ := List.cons.inj h
        simp [hpos]
      | cons q before =>
        obtain ⟨rfl, hrest⟩ := List.cons.inj h
        rw [ih (start := pos + 1) (cur := []) rfl hrest]
        simp only [joinFields_cons, List.length_append, List.length_cons]
        omega
    · rw [splitFields_cons_of_ne hc] at h
      exact ih (by rw [List.length_append, List.length_singleton, hpos, Nat.add_assoc]) h

end fields

/-! ### LIT, DECOUT and BREV -/

theorem exec_lit_eq (f : Fields) (s : State) :
    exec (.lit f) s = runCommand (.lit f) s (do
      let v ← literal (dropTerminator s.tin) 0
      return (s.withVal (BitVec.ofInt 129 v)).withTin []) := rfl

theorem exec_decout_eq (f : Fields) (s : State) :
    exec (.decout f) s = runCommand (.decout f) s (do
      roomFor s.tout.length s.cfg.toutCap (decLine s.val.toInt).length
      return s.withTout (s.tout ++ decLine s.val.toInt)) := rfl

theorem exec_brev {s : State} (hs : s.faulted = false) (f : Fields) :
    exec (.brev f) s = .next (s.withBseq s.bseq.reverse) :=
  runCommand_ok (i := .brev f) _ hs

/-- The text of LIT and SWAPOP (R171, R197). -/
theorem dropTerminator_eq (t : List Byte) :
    dropTerminator t = if t.getLast? = some 0x00 then t.dropLast else t := by
  simp [dropTerminator]

/-- A text without a value raises ParseLiteralError over the whole of it (R173, R228). -/
theorem literal_eq_error {t : List Byte} {pos : Nat} (h : ∀ v, literal t pos ≠ .ok v) :
    literal t pos = .error (.parseLiteralError pos t.length) := by
  cases hl : literal t pos with
  | ok v => exact absurd hl (h v)
  | error k => rw [literal_error hl]

/-- The record of a ParseLiteralError (R226, R228). -/
theorem State.raise_parseLiteralError (s : State) (c : Word) (pos len : Nat) :
    s.raise c (.parseLiteralError pos len) = s.withRecord 5 c 0 (sat32 pos) (sat32 len) 0 := rfl

end Sys2Proof.Machine

/-! ### The statements of 43_support_commands -/

section
open Sys2Proof Sys2Proof.Machine

/-- Settles O45: a text with a value has one of the two forms, and a text of either form has the value it spells. -/
theorem literalGrammar : Obligations.LiteralGrammar := by
  unfold Obligations.LiteralGrammar
  intro s pos
  refine ⟨fun v => ?_, fun k => literal_error⟩
  rw [literal_ok_iff]
  constructor
  · rintro ⟨hvalue, hmin, hmax⟩
    refine ⟨hmin, hmax, ?_⟩
    rcases isLiteral_of_literalValue hvalue with hhex | hdec
    · obtain ⟨x, ds, rfl, hx, hne, hds⟩ := isHexLiteral_iff.mp hhex
      rw [literalValue_hexadecimal hx hne hds] at hvalue
      exact .inl ⟨x, ds, rfl, hx, hne, hds, (Option.some.inj hvalue).symm⟩
    · obtain ⟨sign, ds, rfl, hsign, hne, hds⟩ := isDecLiteral_iff.mp hdec
      rw [literalValue_decimal hsign hne hds] at hvalue
      exact .inr ⟨sign, ds, rfl, hsign, hne, hds, (Option.some.inj hvalue).symm⟩
  · rintro ⟨hmin, hmax, ⟨x, ds, rfl, hx, hne, hds, rfl⟩ | ⟨sign, ds, rfl, hsign, hne, hds, rfl⟩⟩
    · exact ⟨literalValue_hexadecimal hx hne hds, hmin, hmax⟩
    · exact ⟨literalValue_decimal hsign hne hds, hmin, hmax⟩

/-- Settles O46: the digits are those of `Nat.digits`, and reading them back gives the number. -/
theorem decimalText : Obligations.DecimalText := by
  unfold Obligations.DecimalText
  refine ⟨fun n => ?_, fun n hn => ?_, fun v pos hmin hmax => ?_⟩
  · rw [dec_natCast]
    rcases n.eq_zero_or_pos with rfl | hn
    · rfl
    · rw [if_neg hn.ne', decText_of_pos hn]
      rfl
  · rw [dec_neg_natCast hn, dec_natCast]
    rfl
  · exact ⟨length_dec_le hmin hmax, literal_ok_iff.mpr ⟨literalValue_dec v, hmin, hmax⟩⟩

/-- Settles O47: induction over the text, with the bytes of the field so far in front of it. -/
theorem frameSplitsAtNul : Obligations.FrameSplitsAtNul := by
  unfold Obligations.FrameSplitsAtNul
  intro t
  refine ⟨fun p => not_mem_of_mem_splitFields List.not_mem_nil, joinFields_splitFields List.not_mem_nil,
    fun before after p h => ?_⟩
  exact (fst_of_splitFields (start := 0) (cur := []) rfl h).trans (Nat.zero_add _)

/-- Settles O48: the literal of the text is a scalar, so `VAL` holds it; a text that is none raises. -/
theorem litCommand : Obligations.LitCommand := by
  unfold Obligations.LitCommand
  intro f s hs
  rw [exec_lit_eq, ← dropTerminator_eq]
  refine ⟨fun v hv => ?_, fun hnone => ?_⟩
  · obtain ⟨-, hmin, hmax⟩ := literal_ok_iff.mp hv
    rw [hv, except_ok_bind]
    exact ⟨_, toInt_ofInt_scalar hmin hmax, runCommand_ok _ hs⟩
  · rw [literal_eq_error hnone, except_error_bind, runCommand_error _ hs, State.raise_parseLiteralError]
    rfl

/-- Settles O49: the capacity test on the line, then its effects. -/
theorem decoutCommand : Obligations.DecoutCommand := by
  unfold Obligations.DecoutCommand
  intro f s hs o
  rw [exec_decout_eq, show decLine s.val.toInt = o from rfl]
  refine ⟨fun hfull => ?_, fun hroom => ?_⟩
  · rw [roomFor_error_iff.mpr ⟨hfull, rfl⟩, except_error_bind, runCommand_error _ hs, State.raise_capacityError]
  · rw [(roomFor_ok_iff (u := ())).mpr hroom, except_ok_bind]
    exact runCommand_ok _ hs

/-- Settles O50: BREV is list reversal, its own inverse. -/
theorem brevCommand : Obligations.BrevCommand := by
  unfold Obligations.BrevCommand
  intro f g s hs
  refine ⟨s.bseq.reverse, exec_brev hs f, List.length_reverse, fun i hi => List.getElem?_reverse hi, ?_⟩
  have hback := exec_brev (s := s.withBseq s.bseq.reverse) hs g
  rw [State.withBseq_bseq, List.reverse_reverse] at hback
  exact hback

end

/-! ## The Operation Layer: PACKOP, UNPACKOP, SWAPOP and PASSOP

How an operation ends once its output is known, and what each of the four computes; then the statements of 44_operations
about each of them. -/

namespace Sys2Proof.Machine

/-! ### How an operation ends -/

section ends
variable {i : Instr} {s : State}

theorem endOperation_error (hs : s.faulted = false) (k : CoreFault) :
    endOperation i s (.error k) = .next (s.raise (encode i) k) :=
  runCommand_error k hs

/-- An operation whose computation ends with the capacity test on the output `o` (R231): CapacityError, or `o` appended
to `TOUT` and `TIN` emptied. -/
theorem endOperation_roomFor (hs : s.faulted = false) (o : List Byte) :
    (s.cfg.toutCap < s.tout.length + o.length →
      endOperation i s (roomFor s.tout.length s.cfg.toutCap o.length >>= fun _ => .ok (s.tout ++ o)) =
        .next (s.withRecord 9 (encode i) 0 (sat32 o.length) (sat32 (s.cfg.toutCap - s.tout.length)) 0)) ∧
    (s.tout.length + o.length ≤ s.cfg.toutCap →
      endOperation i s (roomFor s.tout.length s.cfg.toutCap o.length >>= fun _ => .ok (s.tout ++ o)) =
        .next { s with tout := s.tout ++ o, tin := [] }) := by
  refine ⟨fun hfull => ?_, fun hroom => ?_⟩
  · rw [roomFor_error_iff.mpr ⟨hfull, rfl⟩, except_error_bind, endOperation_error hs, State.raise_capacityError]
  · rw [(roomFor_ok_iff (u := ())).mpr hroom, except_ok_bind]
    exact runCommand_ok _ hs

end ends

/-! ### The operations at a width -/

section widths
variable {f : Fields} {w : Width} (hw : Width.ofCode f.wc = some w) (s : State)
include hw

theorem exec_packop_at_width : exec (.packop f) s = endOperation (.packop f) s
    (packLiterals w f (frame s.tin) >>= fun p => appendRendered s f p s.repetitions) := by
  rw [exec_packop_eq, widthOf_ok_iff.mpr hw, except_ok_bind]

theorem exec_unpackop_at_width : exec (.unpackop f) s = endOperation (.unpackop f) s
    (inputBytes f s >>= fun b => roomFor s.tout.length s.cfg.toutCap (unpackLines s w f b).length >>= fun _ =>
      .ok (s.tout ++ unpackLines s w f b)) := by
  rw [exec_unpackop_eq, widthOf_ok_iff.mpr hw, except_ok_bind]
  rfl

theorem exec_swapop_at_width : exec (.swapop f) s = endOperation (.swapop f) s
    (literal (dropTerminator s.tin) 0 >>= fun v => pack v w .big f.signed f.strict >>= fun p =>
      appendRendered s f p.reverse 1) := by
  rw [exec_swapop_eq, widthOf_ok_iff.mpr hw, except_ok_bind]

end widths

/-! ### The literals of PACKOP -/

/-- The text `x` at index `pos` is a literal that packs to the bytes `b` (R191). -/
def LiteralPacks (w : Width) (f : Fields) (pos : Nat) (x b : List Byte) : Prop :=
  ∃ v, literal x pos = .ok v ∧ pack v w f.endian f.signed f.strict = .ok b

/-- Where a literal stands matters to its fault alone (R172, R173). -/
theorem literal_ok_at {x : List Byte} {pos : Nat} {v : Int} (h : literal x pos = .ok v) (pos' : Nat) :
    literal x pos' = .ok v :=
  literal_ok_iff.mpr (literal_ok_iff.mp h)

section literals
variable {w : Width} {f : Fields}

/-- Literals that all pack give their bytes in order (R191). -/
theorem packLiterals_of_forall₂ {ps : List (Nat × List Byte)} {bs : List (List Byte)}
    (h : List.Forall₂ (fun p b => LiteralPacks w f p.1 p.2 b) ps bs) : packLiterals w f ps = .ok bs.flatten := by
  induction h with
  | nil => rfl
  | cons hp _ ih =>
    obtain ⟨v, hv, hb⟩ := hp
    exact packLiterals_cons_ok_iff.mpr ⟨v, _, _, hv, hb, ih, rfl⟩

/-- Behind literals that pack, the fault of the rest is the fault of all (R191). -/
theorem packLiterals_append_error {good rest : List (Nat × List Byte)} {k : CoreFault}
    (hgood : ∀ p ∈ good, ∃ b, LiteralPacks w f p.1 p.2 b) (hrest : packLiterals w f rest = .error k) :
    packLiterals w f (good ++ rest) = .error k := by
  induction good with
  | nil => exact hrest
  | cons p good ih =>
    obtain ⟨b, v, hv, hb⟩ := hgood p (by simp)
    have htail := ih fun q hq => hgood q (by simp [hq])
    exact packLiterals_cons_error_iff.mpr (.inr ⟨v, hv, .inr ⟨b, hb, htail⟩⟩)

end literals

/-- The two ways to say R192: "from 2 on", and "once for 0 and 1". -/
theorem State.repetitions_eq (s : State) :
    s.repetitions = if s.repeatCnt.toNat ≤ 1 then 1 else s.repeatCnt.toNat := by
  unfold State.repetitions
  split <;> split <;> omega

/-! ### The input and the chunks of UNPACKOP -/

theorem inputBytes_eq_ok {f : Fields} {s : State} {b : List Byte}
    (hhex : f.infmt = .hexText → parse s.cfg.wsSet s.tin = .ok b) (hraw : f.infmt = .rawBytes → b = s.tin) :
    inputBytes f s = .ok b := by
  cases hfmt : f.infmt with
  | hexText => rw [inputBytes_hexText hfmt, hhex hfmt]
  | rawBytes => rw [inputBytes, hfmt, hraw hfmt]

/-- The chunks by their offsets (R194). -/
theorem chunks_eq_map (n k : Nat) (b : List Byte) :
    chunks n k b = (List.range k).map fun j => (b.drop (j * n)).take n := by
  induction k generalizing b with
  | zero => rfl
  | succ k ih =>
    have hoffset : ∀ j, n + j * n = (j + 1) * n := fun j => by ring
    simp [chunks, ih, List.range_succ_eq_map, Function.comp_def, hoffset]

theorem State.printedCount_eq (s : State) (lim : Bool) (k : Nat) :
    s.printedCount lim k = if lim = true then min s.maxCnt.toNat k else k := by
  cases lim with
  | false => rfl
  | true =>
    simp only [State.printedCount, Bool.true_and, decide_eq_true_eq, if_true]
    split <;> omega

/-- UNPACKOP's lines, chunk by chunk at its offset (R194, R195). -/
theorem unpackLines_eq (s : State) (w : Width) (f : Fields) (b : List Byte) :
    unpackLines s w f b =
      (List.range (if f.lim = true then min s.maxCnt.toNat (b.length / w.bytes) else b.length / w.bytes)).flatMap
        fun j => dec (unpack ((b.drop (j * w.bytes)).take w.bytes) w f.endian f.signed) ++ [0x0A] := by
  rw [unpackLines, chunks_eq_map, List.flatMap_map, State.printedCount_eq]
  rfl

end Sys2Proof.Machine

/-! ### The statements of 44_operations: each operation on its own -/

section
open Sys2Proof Sys2Proof.Machine

/-- Settles O51: the literals give the pattern, whose repetition is list replication; then the capacity test. -/
theorem packopCommand : Obligations.PackopCommand := by
  unfold Obligations.PackopCommand
  intro f s w bs hw hs hbs n o
  have hpattern : packLiterals w f (frame s.tin) = .ok bs.flatten := packLiterals_of_forall₂ hbs
  have ho : render (repeatBytes bs.flatten s.repetitions) f.fmt s.separator f.upper = o := by
    rw [repeatBytes_eq, State.repetitions_eq, State.separator]
  rw [exec_packop_at_width hw, hpattern, except_ok_bind, appendRendered_eq_roomFor ho]
  exact endOperation_roomFor hs o

/-- Settles O52: the fault of the first failing literal ends PACKOP's loop, and the command with it. -/
theorem packopFirstFailingLiteral : Obligations.PackopFirstFailingLiteral := by
  unfold Obligations.PackopFirstFailingLiteral
  intro f s w good rest pos text hw hs hframe hgood
  have hpacks : ∀ p ∈ good, ∃ b, LiteralPacks w f p.1 p.2 b := fun p hp => by
    obtain ⟨v, b, hv, hb⟩ := hgood p hp
    exact ⟨b, v, hv, hb⟩
  have hfault {k : CoreFault} (hk : packLiterals w f ((pos, text) :: rest) = .error k) :
      exec (.packop f) s = .next (s.raise (encode (.packop f)) k) := by
    rw [exec_packop_at_width hw, hframe, packLiterals_append_error hpacks hk, except_error_bind,
      endOperation_error hs]
  have hrefused {v : Int} {k : CoreFault} (hv : literal text pos = .ok v)
      (hk : pack v w f.endian f.signed f.strict = .error k) :
      exec (.packop f) s = .next (s.raise (encode (.packop f)) k) :=
    hfault (packLiterals_cons_error_iff.mpr (.inr ⟨v, hv, .inl hk⟩))
  refine ⟨fun hnone => ?_, fun v hv hst hsg hneg => ?_, fun v hv hst hr hpos => ?_⟩
  · rw [hfault (packLiterals_cons_error_iff.mpr (.inl (literal_eq_error hnone))), State.raise_parseLiteralError]
  · rw [hrefused hv (by rw [hst, hsg, pack_eq_signError w _ hneg]), State.raise_signError]
  · rw [hrefused hv (by rw [hst, pack_eq_rangeError _ hr hpos]), State.raise_rangeError]

/-- Settles O53: the lines are those of the chunks at their offsets; then the capacity test. -/
theorem unpackopCommand : Obligations.UnpackopCommand := by
  unfold Obligations.UnpackopCommand
  intro f s w b hw hs hhex hraw complete k o
  have ho : unpackLines s w f b = o := unpackLines_eq s w f b
  rw [exec_unpackop_at_width hw, inputBytes_eq_ok hhex hraw, except_ok_bind, ho]
  exact endOperation_roomFor hs o

/-- Settles O54: the literal, then what `pack` makes of its value, then the capacity test; the big-endian bytes reversed
are the little-endian ones. -/
theorem swapopCommand : Obligations.SwapopCommand := by
  unfold Obligations.SwapopCommand
  intro f s w hw hs
  rw [exec_swapop_at_width hw, ← dropTerminator_eq]
  refine ⟨fun hnone => ?_, fun v hv => ?_⟩
  · rw [literal_eq_error hnone, except_error_bind, endOperation_error hs, State.raise_parseLiteralError]
    rfl
  rw [hv, except_ok_bind]
  refine ⟨fun hst hsg hneg => ?_, fun hst hr hpos => ?_, fun hr => ?_⟩
  · rw [hst, hsg, pack_eq_signError w _ hneg, except_error_bind, endOperation_error hs, State.raise_signError]
  · rw [hst, pack_eq_rangeError _ hr hpos, except_error_bind, endOperation_error hs, State.raise_rangeError]
  · have hp := pack_eq_ok .big hr
    obtain ⟨hlen, hspell⟩ := pack_ok_spells hp
    refine ⟨_, List.length_reverse.trans hlen, (congrArg Nat.cast hspell).trans (maskedMagnitude_cast ..), ?_⟩
    intro o
    have ho : render (repeatBytes _ 1) f.fmt s.separator f.upper = o :=
      congrArg (render · f.fmt s.separator f.upper) (repeatBytes_one _)
    rw [hp, except_ok_bind, appendRendered_eq_roomFor ho]
    exact endOperation_roomFor hs o

/-- Settles O55: the input once rendered; then the capacity test. -/
theorem passopCommand : Obligations.PassopCommand := by
  unfold Obligations.PassopCommand
  intro f s b hs hhex hraw o
  have ho : render (repeatBytes b 1) f.fmt s.separator f.upper = o := by
    rw [repeatBytes_one, State.separator]
  rw [exec_passop_eq, inputBytes_eq_ok hhex hraw, except_ok_bind, appendRendered_eq_roomFor ho]
  exact endOperation_roomFor hs o

end

/-! ## The operations against the primitive commands

Runs in which nothing faults, taken apart transaction by transaction; then PACKOP, SWAPOP and PASSOP beside the
sequences of primitive commands that 44_operations gives for them. -/

namespace Sys2Proof.Machine

/-! ### Runs without a fault -/

/-- Only CLR and reset leave FAULTED (R237). -/
theorem faulted_of_perform {e : HostEvent} {s t : State} (he : ¬ e.Clears) (h : perform e s = .next t)
    (hs : s.faulted = true) : t.faulted = true := by
  rcases perform_record_cases h with ⟨hclears, -⟩ | ⟨-, her | ⟨hf, -⟩⟩
  · exact absurd hclears he
  · rw [State.faulted_congr her, hs]
  · exact absurd hs (by simp [hf])

theorem runEvents_cons_eq_next_iff {e : HostEvent} {es : List HostEvent} {s t : State} :
    runEvents (e :: es) s = .next t ↔ ∃ m, perform e s = .next m ∧ runEvents es m = .next t := by
  rw [runEvents]
  cases perform e s <;> simp

/-- A command that ends not FAULTED has succeeded. -/
theorem CommandEnds.of_not_faulted {i : Instr} {s t : State} {P : Prop} (h : CommandEnds i s t P)
    (ht : t.faulted = false) : P := by
  rcases h with ⟨hs, rfl⟩ | ⟨-, k, rfl⟩ | ⟨-, hP⟩
  · exact absurd hs (by simp [ht])
  · exact absurd ht (by simp)
  · exact hP

theorem perform_commandEvent {i : Instr} (hwf : i.wellFormed = true) (s : State) :
    perform (commandEvent (encode i)) s = exec i s :=
  writeCmd_of_decode (decode_encode hwf) s

theorem not_clears_commandEvent {i : Instr} (hwf : i.wellFormed = true) (hi : ∀ f, i ≠ .clr f) :
    ¬ (commandEvent (encode i)).Clears := by
  rintro (h | ⟨d, h, hd⟩)
  · cases h
  · cases h
    have hclr := (decode_encode hwf).symm.trans ((decode_clr_iff _).mp hd)
    exact hi _ (Except.ok.inj hclr)

/-- Commands other than CLR clear nothing. -/
theorem not_clears_commandEvents {cs : List Instr} (h : ∀ i ∈ cs, i.wellFormed = true ∧ ∀ f, i ≠ .clr f) :
    ∀ e ∈ cs.map (fun i => commandEvent (encode i)), ¬ e.Clears := by
  intro e he
  obtain ⟨i, hi, rfl⟩ := List.mem_map.mp he
  obtain ⟨hwf, hclr⟩ := h i hi
  exact not_clears_commandEvent hwf hclr

theorem not_clears_of_mem_tinStatement {x : List Byte} {e : HostEvent} (h : e ∈ tinStatement x) : ¬ e.Clears := by
  obtain ⟨c, -, rfl⟩ := List.mem_map.mp h
  exact not_clears_of_index_ne (by decide) _

/-- A run that ends not FAULTED although none of its events clears the CORE: none of its transactions faults. -/
structure FaultFreeRun (es : List HostEvent) (s t : State) : Prop where
  run : runEvents es s = .next t
  keeps : ∀ e ∈ es, ¬ e.Clears
  ends : t.faulted = false

/-- A byte written to a data register arrives as it is (R39, R92). -/
theorem extractLsb'_setWidth_byte (c : Byte) : (c.setWidth 32).extractLsb' 0 8 = c := by
  apply BitVec.eq_of_getLsbD_eq
  intro b hb
  simp [hb, show b < 32 by omega]

namespace FaultFreeRun
variable {e : HostEvent} {es es' : List HostEvent} {s t : State}

theorem eq_of_nil (h : FaultFreeRun [] s t) : t = s := by
  cases h.run
  rfl

theorem cons (h : FaultFreeRun (e :: es) s t) : ∃ m, perform e s = .next m ∧ FaultFreeRun es m t := by
  obtain ⟨m, hm, hrest⟩ := runEvents_cons_eq_next_iff.mp h.run
  exact ⟨m, hm, hrest, fun e' he' => h.keeps e' (List.mem_cons_of_mem e he'), h.ends⟩

/-- No run without a fault starts FAULTED. -/
theorem starts (h : FaultFreeRun es s t) : s.faulted = false := by
  induction es generalizing s with
  | nil => exact h.eq_of_nil ▸ h.ends
  | cons e es ih =>
    obtain ⟨m, hm, hrest⟩ := h.cons
    have hkeeps := faulted_of_perform (h.keeps e List.mem_cons_self) hm
    exact Bool.eq_false_iff.mpr fun hs => Bool.eq_false_iff.mp (ih hrest) (hkeeps hs)

theorem append (h : FaultFreeRun (es ++ es') s t) : ∃ m, FaultFreeRun es s m ∧ FaultFreeRun es' m t := by
  induction es generalizing s with
  | nil => exact ⟨s, ⟨rfl, nofun, h.starts⟩, h⟩
  | cons e es ih =>
    obtain ⟨u, hu, hrest⟩ := h.cons
    obtain ⟨m, hm, hafter⟩ := ih hrest
    have hkeeps : ∀ e' ∈ e :: es, ¬ e'.Clears := fun e' he' => h.keeps e' (List.mem_append_left es' he')
    exact ⟨m, ⟨runEvents_cons_eq_next_iff.mpr ⟨u, hu, hm.run⟩, hkeeps, hm.ends⟩, hafter⟩

/-- The first command of a run without a fault succeeds, with the facts `P` of its success. -/
theorem command {i : Instr} {P : State → Prop} (h : FaultFreeRun (commandEvent (encode i) :: es) s t)
    (hwf : i.wellFormed = true) (hends : ∀ {m}, exec i s = .next m → CommandEnds i s m (P m)) :
    ∃ m, P m ∧ FaultFreeRun es m t := by
  obtain ⟨m, hm, hrest⟩ := h.cons
  rw [perform_commandEvent hwf] at hm
  exact ⟨m, (hends hm).of_not_faulted hrest.starts, hrest⟩

/-- Loading a text without a fault appends it to `TIN` (R39, R92). -/
theorem load {x : List Byte} (h : FaultFreeRun (tinStatement x) s t) : t = s.withTin (s.tin ++ x) := by
  induction x generalizing s with
  | nil =>
    rw [List.append_nil, h.eq_of_nil]
    rfl
  | cons c x ih =>
    obtain ⟨m, hm, hrest⟩ := h.cons
    rw [perform_write_tinData h.starts] at hm
    split at hm
    · cases hm
      have hbyte : pushByte s.tin (c.setWidth 32) = s.tin ++ [c] := by rw [pushByte, extractLsb'_setWidth_byte]
      rw [ih hrest, hbyte, State.withTin_tin, List.append_assoc]
      rfl
    · cases hm
      exact absurd hrest.starts nofun

end FaultFreeRun

/-! ### PACKOP beside LIT and PACK -/

/-- What LIT leaves in `VAL` is the value of its literal (R21, R171). -/
theorem scalar_after_lit {x : List Byte} {pos : Nat} {v : Int} (h : literal x pos = .ok v) (s : State) :
    ((s.withVal (BitVec.ofInt 129 v)).withTin []).scalar = v := by
  obtain ⟨-, hmin, hmax⟩ := literal_ok_iff.mp h
  exact toInt_ofInt_scalar hmin hmax

/-- Two renderings of the same bytes, onto the same `TOUT` with the same options, give the same `TOUT`. -/
theorem appendRendered_ok_unique {s s' : State} {f : Fields} {p : List Byte} {k : Nat} {o o' : List Byte}
    (hcfg : s.cfg = s'.cfg) (htout : s.tout = s'.tout) (hsep : s.separator = s'.separator)
    (h : appendRendered s f p k = .ok o) (h' : appendRendered s' f p k = .ok o') : o = o' := by
  rw [appendRendered_congr hcfg htout fun _ => hsep, h'] at h
  exact (Except.ok.inj h).symm

/-- The transactions that load one literal and put its bytes into `BSEQ` (R193). -/
def literalEvents (f : Fields) (x : List Byte) : List HostEvent :=
  tinStatement x ++ [commandEvent (encode (.lit f)), commandEvent (encode (.pack f))]

theorem not_clears_literalEvents {f : Fields} (hwf : f.widthCodeValid = true) (x : List Byte) :
    ∀ e ∈ literalEvents f x, ¬ e.Clears :=
  List.forall_mem_append.mpr ⟨fun _ => not_clears_of_mem_tinStatement,
    not_clears_commandEvents (cs := [.lit f, .pack f]) (by simpa [Instr.wellFormed] using hwf)⟩

/-- A text loaded as a field of its own, its 0x00 behind it (R175). -/
def nulTerminated (x : List Byte) : List Byte := x ++ [0x00]

theorem splitFields_append_nul {x : List Byte} (hx : 0x00 ∉ x) (pos : Nat) (cur t : List Byte) :
    ∃ start next, splitFields pos cur (nulTerminated x ++ t) = (start, cur ++ x) :: splitFields next [] t := by
  induction x generalizing pos cur with
  | nil => exact ⟨_, _, by rw [List.append_nil]; exact splitFields_cons_nul pos cur t⟩
  | cons c x ih =>
    obtain ⟨hc, hx⟩ := not_or.mp (List.mem_cons.not.mp hx)
    obtain ⟨start, next, hsplit⟩ := ih hx (pos + 1) (cur ++ [c])
    refine ⟨start, next, (splitFields_cons_of_ne (Ne.symm hc) pos cur _).trans (hsplit.trans ?_)⟩
    rw [List.append_assoc]
    rfl

/-- Framing gives back the texts that were loaded, each ended by 0x00 (R175). -/
theorem map_snd_splitFields {texts : List (List Byte)} (h : ∀ x ∈ texts, (0x00 : Byte) ∉ x) (pos : Nat) :
    (splitFields pos [] (texts.flatMap nulTerminated)).map Prod.snd = texts := by
  induction texts generalizing pos with
  | nil => rfl
  | cons x texts ih =>
    obtain ⟨start, next, hsplit⟩ :=
      splitFields_append_nul (h x List.mem_cons_self) pos [] (texts.flatMap nulTerminated)
    rw [List.flatMap_cons, hsplit, List.map_cons, ih fun y hy => h y (List.mem_cons_of_mem x hy)]
    rfl

theorem dropTerminator_of_not_mem {x : List Byte} (h : 0x00 ∉ x) : dropTerminator x = x := by
  rw [dropTerminator_eq]
  exact if_neg fun hlast => h (List.mem_of_getLast? hlast)

theorem widthCodeValid_of_ofCode {f : Fields} {w : Width} (h : Width.ofCode f.wc = some w) :
    f.widthCodeValid = true :=
  decide_eq_true ((Width.ofCode_isSome_iff f.wc).mp (Option.isSome_of_eq_some h))

section literals
variable {f : Fields} {w : Width} (hw : Width.ofCode f.wc = some w) {s t : State} (htin : s.tin = [])
include hw htin

/-- LIT carries the value of the literal unchanged to PACK, which appends its bytes (R110, R171). -/
theorem FaultFreeRun.literal {x : List Byte} (hx : 0x00 ∉ x) (h : FaultFreeRun (literalEvents f x) s t) :
    ∃ b v, LiteralPacks w f 0 x b ∧ t = ((s.withTin []).withBseq (s.bseq ++ b)).withVal v := by
  obtain ⟨m, hload, h⟩ := h.append
  obtain rfl := hload.load
  obtain ⟨m, ⟨v, hv, rfl⟩, h⟩ := h.command rfl execLit_cases
  obtain ⟨m, ⟨w', b, hw', hb, -, rfl⟩, h⟩ := h.command (widthCodeValid_of_ofCode hw) execPack_cases
  obtain rfl : w = w' := Option.some.inj (hw.symm.trans hw')
  obtain rfl := h.eq_of_nil
  rw [State.withTin_tin, htin, List.nil_append, dropTerminator_of_not_mem hx] at hv
  rw [scalar_after_lit hv] at hb
  exact ⟨b, BitVec.ofInt 129 v, ⟨v, hv, hb⟩, rfl⟩

/-- LIT and PACK for each text in turn leave the bytes of all of them in `BSEQ` (R193). -/
theorem FaultFreeRun.literals {texts : List (List Byte)} (hnul : ∀ x ∈ texts, (0x00 : Byte) ∉ x)
    (h : FaultFreeRun (texts.flatMap (literalEvents f)) s t) :
    ∃ bs v, List.Forall₂ (LiteralPacks w f 0) texts bs ∧
      t = ((s.withTin []).withBseq (s.bseq ++ bs.flatten)).withVal v := by
  induction texts generalizing s with
  | nil =>
    obtain rfl := h.eq_of_nil
    refine ⟨[], t.val, .nil, ?_⟩
    rw [← htin, List.flatten_nil, List.append_nil]
    rfl
  | cons x texts ih =>
    obtain ⟨m, hfirst, hrest⟩ := h.append
    obtain ⟨b, v, hb, rfl⟩ := hfirst.literal hw htin (hnul x List.mem_cons_self)
    obtain ⟨bs, v', hbs, rfl⟩ := ih rfl (fun y hy => hnul y (List.mem_cons_of_mem x hy)) hrest
    refine ⟨b :: bs, v', .cons hb hbs, ?_⟩
    rw [List.flatten_cons, ← List.append_assoc]
    rfl

end literals

/-- PACKOP's loop over texts loaded one behind the other, each ended by 0x00, gives the bytes of each (R191, R193). -/
theorem packLiterals_frame {w : Width} {f : Fields} {texts bs : List (List Byte)}
    (hnul : ∀ x ∈ texts, (0x00 : Byte) ∉ x) (h : List.Forall₂ (LiteralPacks w f 0) texts bs) :
    packLiterals w f (frame (texts.flatMap nulTerminated)) = .ok bs.flatten := by
  have hfields : (frame (texts.flatMap nulTerminated)).map Prod.snd = texts := map_snd_splitFields hnul 0
  rw [← hfields, List.forall₂_map_left_iff] at h
  refine packLiterals_of_forall₂ (h.imp fun p b hp => ?_)
  obtain ⟨v, hv, hb⟩ := hp
  exact ⟨v, literal_ok_at hv p.1, hb⟩

/-- With `BSEQ` empty and `REPEAT` at most 1, PACKOP renders the bytes of the same literals, in the same order, as the
primitive commands collect in `BSEQ` (R193). -/
theorem FaultFreeRun.tout_packop_eq {f : Fields} {w : Width} {texts : List (List Byte)} {s t t' : State}
    (hw : Width.ofCode f.wc = some w) (htin : s.tin = []) (hbseq : s.bseq = []) (hrep : s.repeatCnt.toNat ≤ 1)
    (hnul : ∀ x ∈ texts, (0x00 : Byte) ∉ x)
    (h : FaultFreeRun (tinStatement (texts.flatMap nulTerminated) ++ [commandEvent (encode (.packop f))]) s t)
    (h' : FaultFreeRun (texts.flatMap (literalEvents f) ++ [commandEvent (encode (.render f))]) s t') :
    t.tout = t'.tout := by
  obtain ⟨m, hload, hcommand⟩ := h.append
  obtain ⟨m', hliterals, hrender⟩ := h'.append
  obtain rfl := hload.load
  obtain ⟨bs, v, hbs, rfl⟩ := hliterals.literals hw htin hnul
  have hwf := widthCodeValid_of_ofCode hw
  obtain ⟨_, ⟨w', p, o, hw', hp, ho, rfl⟩, hnil⟩ := hcommand.command hwf execPackop_cases
  obtain ⟨_, ⟨o', ho', rfl⟩, hnil'⟩ := hrender.command rfl execRender_cases
  obtain rfl := hnil.eq_of_nil
  obtain rfl := hnil'.eq_of_nil
  obtain rfl : w = w' := Option.some.inj (hw.symm.trans hw')
  have hpattern : p = bs.flatten := by
    rw [State.withTin_tin, htin, List.nil_append, packLiterals_frame hnul hbs] at hp
    exact (Except.ok.inj hp).symm
  have honce : (s.withTin (s.tin ++ texts.flatMap nulTerminated)).repetitions = 1 :=
    (State.repetitions_eq _).trans (if_pos hrep)
  rw [hpattern, honce] at ho
  rw [State.withVal_bseq, State.withBseq_bseq, hbseq, List.nil_append] at ho'
  exact appendRendered_ok_unique rfl rfl rfl ho ho'

/-! ### SWAPOP and PASSOP beside their primitive commands -/

section commands
variable {f : Fields} {s t t' : State} (hbseq : s.bseq = [])
include hbseq

/-- BREV reverses in `BSEQ` what SWAPOP reverses on its way to `TOUT` (R198). -/
theorem FaultFreeRun.tout_swapop_eq (hwf : f.widthCodeValid = true)
    (h : FaultFreeRun [commandEvent (encode (.swapop f))] s t)
    (h' : FaultFreeRun [commandEvent (encode (.lit f)), commandEvent (encode (.pack { f with endian := .big })),
      commandEvent (encode (.brev f)), commandEvent (encode (.render f))] s t') : t.tout = t'.tout := by
  obtain ⟨_, ⟨w, v, p, o, hw, hv, hp, ho, rfl⟩, hnil⟩ := h.command hwf execSwapop_cases
  obtain ⟨_, ⟨v', hv', rfl⟩, h'⟩ := h'.command rfl execLit_cases
  obtain ⟨_, ⟨w', b, hw', hb, -, rfl⟩, h'⟩ := h'.command hwf execPack_cases
  obtain ⟨_, rfl, h'⟩ := h'.command rfl execBrev_cases
  obtain ⟨_, ⟨o', ho', rfl⟩, hnil'⟩ := h'.command rfl execRender_cases
  obtain rfl := hnil.eq_of_nil
  obtain rfl := hnil'.eq_of_nil
  obtain rfl : w = w' := Option.some.inj (hw.symm.trans hw')
  obtain rfl : v = v' := Except.ok.inj (hv.symm.trans hv')
  rw [scalar_after_lit hv] at hb
  obtain rfl : p = b := Except.ok.inj (hp.symm.trans hb)
  have hbytes : (s.bseq ++ p).reverse = p.reverse := by rw [hbseq, List.nil_append]
  exact appendRendered_ok_unique rfl rfl rfl ho (hbytes ▸ ho')

/-- PASSOP renders the bytes that HEXPARSE puts into `BSEQ` (R200). -/
theorem FaultFreeRun.tout_passop_eq (hfmt : f.infmt = .hexText)
    (h : FaultFreeRun [commandEvent (encode (.passop f))] s t)
    (h' : FaultFreeRun [commandEvent (encode (.hexparse f)), commandEvent (encode (.render f))] s t') :
    t.tout = t'.tout := by
  obtain ⟨_, ⟨b, o, hb, ho, rfl⟩, hnil⟩ := h.command rfl execPassop_cases
  obtain ⟨_, ⟨b', hb', -, rfl⟩, h'⟩ := h'.command rfl execHexparse_cases
  obtain ⟨_, ⟨o', ho', rfl⟩, hnil'⟩ := h'.command rfl execRender_cases
  obtain rfl := hnil.eq_of_nil
  obtain rfl := hnil'.eq_of_nil
  rw [inputBytes_hexText hfmt] at hb
  obtain rfl : b = b' := Except.ok.inj (hb.symm.trans hb')
  have hbytes : s.bseq ++ b = b := by rw [hbseq, List.nil_append]
  exact appendRendered_ok_unique rfl rfl rfl ho (hbytes ▸ ho')

end commands

end Sys2Proof.Machine

/-! ### The statements of 44_operations: the operations and the primitive commands -/

section
open Sys2Proof Sys2Proof.Machine

/-- Settles O58: no transaction of the two runs faults, so both render the bytes of the same literals. -/
theorem packopEqualsPrimitives : Obligations.PackopEqualsPrimitives := by
  unfold Obligations.PackopEqualsPrimitives
  intro f texts s t t' _ htin hbseq hrep hnul hwf hrun hrun' ht ht'
  obtain ⟨w, hw⟩ := widthOf_of_valid hwf
  refine FaultFreeRun.tout_packop_eq (widthOf_ok_iff.mp hw) htin hbseq hrep hnul ⟨hrun, ?_, ht⟩ ⟨hrun', ?_, ht'⟩
  · exact List.forall_mem_append.mpr ⟨fun _ => not_clears_of_mem_tinStatement,
      List.forall_mem_singleton.mpr (not_clears_commandEvent hwf nofun)⟩
  · refine List.forall_mem_append.mpr ⟨fun e he => ?_,
      List.forall_mem_singleton.mpr (not_clears_commandEvent rfl nofun)⟩
    obtain ⟨x, -, hx⟩ := List.mem_flatMap.mp he
    exact not_clears_literalEvents hwf x e hx

/-- Settles O59: no transaction of the runs faults, so each command leaves for the next what the operation computes. -/
theorem swapopAndPassopEqualPrimitives : Obligations.SwapopAndPassopEqualPrimitives := by
  unfold Obligations.SwapopAndPassopEqualPrimitives
  intro f s t t' _ hbseq ht ht'
  refine ⟨fun hwf hrun hrun' => ?_, fun hfmt hrun hrun' => ?_⟩
  · have hcs : ∀ i ∈ [Instr.lit f, .pack { f with endian := .big }, .brev f, .render f],
        i.wellFormed = true ∧ ∀ g, i ≠ .clr g := by
      simpa [Instr.wellFormed, Fields.widthCodeValid] using hwf
    exact FaultFreeRun.tout_swapop_eq hbseq hwf
      ⟨hrun, List.forall_mem_singleton.mpr (not_clears_commandEvent hwf nofun), ht⟩
      ⟨hrun', not_clears_commandEvents hcs, ht'⟩
  · have hcs : ∀ i ∈ [Instr.hexparse f, .render f], i.wellFormed = true ∧ ∀ g, i ≠ .clr g := by
      simp [Instr.wellFormed]
    exact FaultFreeRun.tout_passop_eq hbseq hfmt
      ⟨hrun, List.forall_mem_singleton.mpr (not_clears_commandEvent rfl nofun), ht⟩
      ⟨hrun', not_clears_commandEvents hcs, ht'⟩

end

/-! ## Faults: entry, the mark, and the way out

A fault entry is the raise of one write, at one of four registers; a transaction that is no fault entry leaves the
mark of R239 alone. The statements of 60_exceptions follow. -/

namespace Sys2Proof.Machine

/-! ### Which registers raise a fault -/

/-- Only the writes bounded by a capacity touch the error record (R220). -/
theorem storeReg_er_of_not_mem {r : Reg} (hr : r ∉ [Reg.tinData, .bseqData, .sepLen]) (i : RegIndex) (d : Word)
    (s : State) : (storeReg i d s r).er = s.er := by
  cases r with
  | tinData | bseqData | sepLen => simp at hr
  | _ => rfl

/-- The indices of the registers bounded by a capacity (R28). -/
theorem index_mem_of_capacity_reg {cfg : Config} {i : RegIndex}
    (h : Reg.ofIndex cfg i ∈ [Reg.tinData, .bseqData, .sepLen]) : i ∈ [(0x18 : RegIndex), 0x1A, 0x1E] := by
  unfold Reg.ofIndex at h
  split at h
  case h_19 hi => simp [show i = 0x18 from BitVec.eq_of_toNat_eq hi]
  case h_21 hi => simp [show i = 0x1A from BitVec.eq_of_toNat_eq hi]
  case h_25 hi => simp [show i = 0x1E from BitVec.eq_of_toNat_eq hi]
  case h_26 => split at h <;> simp at h
  all_goals simp at h

/-- A write that takes a fault is to `CMD` or to a register bounded by a capacity (R220). -/
theorem index_mem_of_fault_entry {i : RegIndex} {d : Word} {s t : State} (hs : s.faulted = false)
    (h : perform (.regWrite i d) s = .next t) (ht : t.faulted = true) :
    i ∈ [(0x00 : RegIndex), 0x18, 0x1A, 0x1E] := by
  by_cases hi : i = 0
  · exact List.mem_cons.mpr (.inl hi)
  · rw [perform_regWrite d s hi, gated_of_not_faulted _ hs] at h
    cases h
    refine List.mem_cons_of_mem _ (index_mem_of_capacity_reg (cfg := s.cfg) ?_)
    by_contra hr
    have hkept := State.faulted_congr (storeReg_er_of_not_mem hr i d s)
    simp [ht, hs] at hkept

/-! ### Fault entry -/

/-- From not FAULTED to FAULTED: the raise of a write's fault, and nothing else (R227). -/
theorem perform_fault_entry {e : HostEvent} {s t : State} (hs : s.faulted = false) (h : perform e s = .next t)
    (ht : t.faulted = true) : ∃ i d k w, e = .regWrite i d ∧ t = s.raise w k := by
  rcases perform_record_cases h with ⟨-, rfl⟩ | ⟨-, her | ⟨-, i, d, k, w, he, hraise, -⟩⟩
  · simp at ht
  · simp [State.faulted_congr her, hs] at ht
  · exact ⟨i, d, k, w, he, hraise⟩

/-! ### What is no fault entry leaves the mark alone -/

/-- A fault entry, seen from outside (R227): from not FAULTED to FAULTED. -/
def EntersFault (s t : State) : Prop := s.faulted = false ∧ t.faulted = true

section mark
variable {s t : State}

/-- Behind the gate stands a state that keeps the mark or a fault. -/
theorem gated_faultMark (ht : t.faultMark = s.faultMark ∨ t.faulted = true) (hn : ¬ EntersFault s (gated s t)) :
    (gated s t).faultMark = s.faultMark := by
  rcases gated_cases s t with ⟨-, hg⟩ | ⟨hs, hg⟩ <;> rw [hg] at hn ⊢
  exact ht.resolve_right fun hfault => hn ⟨hs, hfault⟩

/-- No command's row of R49 names the mark. -/
theorem exec_faultMark_of_not_faulted {i : Instr} (h : exec i s = .next t) (ht : t.faulted = false) :
    t.faultMark = s.faultMark := by
  have hrow := commandsWriteOnlyTheirRow i s t h
  rw [if_neg (by simp [ht])] at hrow
  cases i <;> exact (congrArg State.faultMark hrow :)

theorem exec_faultMark {i : Instr} (h : exec i s = .next t) (hn : ¬ EntersFault s t) :
    t.faultMark = s.faultMark := by
  cases ht : t.faulted with
  | false => exact exec_faultMark_of_not_faulted h ht
  | true =>
    rcases exec_record_cases h with ⟨-, rfl⟩ | ⟨hi, -⟩
    · rfl
    · have hs : s.faulted = true := by simpa [EntersFault, ht] using hn
      rw [exec_faulted hi hs] at h
      cases h
      rfl

theorem writeCmd_faultMark {d : Word} (h : writeCmd d s = .next t) (hn : ¬ EntersFault s t) :
    t.faultMark = s.faultMark := by
  cases hdec : decode d with
  | ok i => exact exec_faultMark (writeCmd_of_decode hdec s ▸ h) hn
  | error e =>
    rw [writeCmd_of_error hdec] at h
    cases h
    exact gated_faultMark (.inr (State.raise_faulted ..)) hn

theorem storeReg_faultMark_or_faulted (i : RegIndex) (d : Word) (s : State) (r : Reg) :
    (storeReg i d s r).faultMark = s.faultMark ∨ (storeReg i d s r).faulted = true := by
  rcases storeReg_cases i d s r with h | h | h | h | ⟨v, h⟩ | ⟨-, h⟩ | ⟨-, h⟩ | ⟨-, h⟩ | ⟨k, h⟩
  case inr.inl => exact .inr (by rw [h, State.raise_faulted])
  all_goals exact .inl (by simp [h])

@[simp] theorem readReg_faultMark (i : RegIndex) (s : State) : (readReg i s).faultMark = s.faultMark := by
  obtain ⟨v, h | h | h⟩ := readReg_cases i s <;> simp [h]

/-- A transaction that is no fault entry leaves the mark as it is (R239; log 6). -/
theorem perform_faultMark {e : HostEvent} (h : perform e s = .next t) (hn : ¬ EntersFault s t) :
    t.faultMark = s.faultMark := by
  cases e with
  | reset =>
    cases h
    rfl
  | regRead i =>
    cases h
    exact readReg_faultMark i s
  | regWrite i d =>
    by_cases hi : i = 0
    · subst hi
      exact writeCmd_faultMark h hn
    · rw [perform_regWrite d s hi] at h
      cases h
      exact gated_faultMark (storeReg_faultMark_or_faulted i d s _) hn

/-! ### Steps -/

theorem step_faultMark (h : step s = .next t) (hn : ¬ EntersFault s t) : t.faultMark = s.faultMark := by
  cases hin : s.inbox with
  | nil =>
    rw [step_of_inbox_nil hin] at h
    cases h
    rfl
  | cons e es => exact perform_faultMark (s := s.withInbox es) (step_of_inbox_cons hin ▸ h) hn

theorem step_faultMark_of_entersFault (h : step s = .next t) (hentry : EntersFault s t) : t.faultMark = true := by
  obtain ⟨hs, ht⟩ := hentry
  cases hin : s.inbox with
  | nil =>
    rw [step_of_inbox_nil hin] at h
    cases h
    simp [hs] at ht
  | cons e es =>
    rw [step_of_inbox_cons hin] at h
    obtain ⟨i, d, k, w, -, rfl⟩ := perform_fault_entry (s := s.withInbox es) hs h ht
    rfl

end mark

end Sys2Proof.Machine

/-! ### The statements of 60_exceptions -/

section
open Sys2Proof Sys2Proof.Machine

/-- Settles O16: what is neither reset nor a CLR word keeps the CORE FAULTED, and these two clear it. -/
theorem onlyClrOrResetLeavesFaulted : Obligations.OnlyClrOrResetLeavesFaulted := by
  unfold Obligations.OnlyClrOrResetLeavesFaulted
  intro s t e hs h ht
  rcases perform_record_cases h with ⟨hclears, rfl⟩ | ⟨hn, -⟩
  · exact ⟨hclears, rfl⟩
  · simp [faulted_of_perform hn h hs] at ht

/-- Settles O17: a fault entry is the raise of a write's fault, and the register map gives the four indices. -/
theorem faultEntryIsPrecise : Obligations.FaultEntryIsPrecise := by
  unfold Obligations.FaultEntryIsPrecise
  intro s t e hs h ht
  obtain ⟨i, d, k, w, rfl, rfl⟩ := perform_fault_entry hs h ht
  exact ⟨rfl, i, d, rfl, index_mem_of_fault_entry hs h ht⟩

/-- Settles O19: a step either is a fault entry, which sets the mark, or leaves the mark as it is. -/
theorem faultMarkRecordsEveryFault : Obligations.FaultMarkRecordsEveryFault := by
  unfold Obligations.FaultMarkRecordsEveryFault
  intro s t h
  by_cases hentry : EntersFault s t
  · have hmark := step_faultMark_of_entersFault h hentry
    exact ⟨fun _ => hmark, fun _ _ => hmark, fun _ _ => hentry⟩
  · have hmark := step_faultMark h hentry
    refine ⟨fun hs => hmark.trans hs, fun hs ht => absurd ⟨hs, ht⟩ hentry, fun hs ht => ?_⟩
    simp [hmark, hs] at ht

end

/-! ## What stands outside the CORE

Every transaction has a next state, and none but a read touches what the model keeps beside the architectural
state and the mark: the parameters, the events to come and the replies. The statements of 70_reset_and_hazards
follow. -/

namespace Sys2Proof.Machine

/-- A transaction always has a next state (R263). -/
theorem perform_isNext (e : HostEvent) (s : State) : ∃ t, perform e s = .next t := by
  obtain ⟨t, ht⟩ := perform_withInbox e s
  exact ⟨t.withInbox s.inbox, ht s.inbox⟩

/-- The parameters, the events to come and the replies are the same in both states (R252; logs 1 and 2). -/
structure SameOutside (s t : State) : Prop where
  cfg_eq : t.cfg = s.cfg
  inbox_eq : t.inbox = s.inbox
  replies_eq : t.replies = s.replies

section outside
variable {s t : State}

theorem SameOutside.refl (s : State) : SameOutside s s := ⟨rfl, rfl, rfl⟩

theorem SameOutside.raise (s : State) (w : Word) (k : CoreFault) : SameOutside s (s.raise w k) := ⟨rfl, rfl, rfl⟩

/-- Fault or no fault, CLR too: a command acts on the CORE alone. -/
theorem exec_sameOutside {i : Instr} (h : exec i s = .next t) : SameOutside s t := by
  rcases exec_cases h with ⟨-, rfl⟩ | ⟨-, ⟨-, rfl⟩ | ⟨-, k, rfl⟩ | ⟨-, v, q, b, o, rfl⟩⟩
  · exact ⟨rfl, rfl, rfl⟩
  · exact .refl t
  · exact .raise s _ k
  · exact ⟨rfl, rfl, rfl⟩

theorem gated_sameOutside (h : SameOutside s t) : SameOutside s (gated s t) := by
  rcases gated_cases s t with ⟨-, hg⟩ | ⟨-, hg⟩ <;> rw [hg]
  · exact .refl s
  · exact h

theorem writeCmd_sameOutside {d : Word} (h : writeCmd d s = .next t) : SameOutside s t := by
  cases hdec : decode d with
  | ok i => exact exec_sameOutside (writeCmd_of_decode hdec s ▸ h)
  | error e =>
    rw [writeCmd_of_error hdec] at h
    cases h
    exact gated_sameOutside (.raise s d _)

theorem storeReg_sameOutside (i : RegIndex) (d : Word) (s : State) (r : Reg) :
    SameOutside s (storeReg i d s r) := by
  rcases storeReg_cases i d s r with h | h | h | h | ⟨v, h⟩ | ⟨-, h⟩ | ⟨-, h⟩ | ⟨-, h⟩ | ⟨k, h⟩ <;> rw [h] <;>
    exact ⟨rfl, rfl, rfl⟩

/-- A transaction that is no read returns no value (R27). -/
theorem perform_sameOutside {e : HostEvent} (he : ∀ i, e ≠ .regRead i) (h : perform e s = .next t) :
    SameOutside s t := by
  cases e with
  | regRead i => exact absurd rfl (he i)
  | reset =>
    cases h
    exact ⟨rfl, rfl, rfl⟩
  | regWrite i d =>
    by_cases hi : i = 0
    · subst hi
      exact writeCmd_sameOutside h
    · rw [perform_regWrite d s hi] at h
      cases h
      exact gated_sameOutside (storeReg_sameOutside i d s _)

/-- A read acts on the CORE alone, but for the one value it returns (R27). -/
theorem readReg_eq_reply (i : RegIndex) (s : State) : ∃ u v, readReg i s = u.reply v ∧ SameOutside s u := by
  obtain ⟨v, h | h | h⟩ := readReg_cases i s <;> exact ⟨_, v, h, rfl, rfl, rfl⟩

end outside

end Sys2Proof.Machine

/-! ### The statements of 70_reset_and_hazards -/

section
open Sys2Proof Sys2Proof.Machine

/-- Settles O11: a step performs one transaction or none. -/
theorem everyStepHasNextState : Obligations.EveryStepHasNextState := by
  unfold Obligations.EveryStepHasNextState
  intro s
  cases hin : s.inbox with
  | nil => exact ⟨s, step_of_inbox_nil hin⟩
  | cons e es =>
    rw [step_of_inbox_cons hin]
    exact perform_isNext e _

/-- Settles O14: once its event is taken, a step is a read, which adds its reply, or leaves all outside the CORE. -/
theorem stepKeepsParameters : Obligations.StepKeepsParameters := by
  unfold Obligations.StepKeepsParameters
  intro s t h
  cases hin : s.inbox with
  | nil =>
    rw [step_of_inbox_nil hin] at h
    cases h
    simp [hin]
  | cons e es =>
    rw [step_of_inbox_cons hin] at h
    by_cases he : ∃ i, e = .regRead i
    · obtain ⟨i, rfl⟩ := he
      obtain ⟨u, v, hread, hu⟩ := readReg_eq_reply i (s.withInbox es)
      have ht : t = u.reply v := (Host.Outcome.next.inj h).symm.trans hread
      subst ht
      exact ⟨hu.cfg_eq, hu.inbox_eq, fun _ => ⟨v, congrArg (· ++ [v]) hu.replies_eq⟩,
        fun hn => absurd ⟨i, rfl⟩ hn⟩
    · have hsame := perform_sameOutside (not_exists.mp he) h
      exact ⟨hsame.cfg_eq, hsame.inbox_eq, fun ⟨i, hi⟩ => absurd ⟨i, Option.some.inj hi⟩ he,
        fun _ => hsame.replies_eq⟩

end
